-- ==== Sys2Proof/Word.lean ====
section
/-! DEFINITION. The word, byte and register-number types (00_scope.md R5, R10). -/

namespace Sys2Proof

/-- A word: 32 bits, numbered 31 down to 0; `+` and `-` on it wrap modulo 2^32 (R10). -/
abbrev Word := BitVec 32

/-- A byte of the storage behind the bus port. -/
abbrev Byte := BitVec 8

/-- A 4-bit logical register index, 0 to 15; 15 is the program counter (R18, R26). -/
abbrev Reg := BitVec 4

end Sys2Proof
end

