-- ==== Sys2Proof/Syntax.lean ====
section
/-! DEFINITION. The instructions as data: one constructor for each row of spec/opcode_table.json, in
the table's order (30_encoding.md R122). A constructor carries every field its row leaves free, so
that the raw word is `encode` of the instruction (log 11). -/

namespace Sys2Proof

/-- The sixteen conditions, in the order of their codes (30_encoding.md R109). -/
inductive Cond
  | eq | ne | cs | cc | mi | pl | vs | vc | hi | ls | ge | lt | gt | le | al | nv
  deriving DecidableEq, Repr

/-- The four shift types, in the order of their codes (30_encoding.md R97, 41_shifter_operand.md
R154). -/
inductive ShiftType
  | lsl | lsr | asr | ror
  deriving DecidableEq, Repr

/-- The sixteen data-processing opcodes, in the order of their codes (30_encoding.md R98). -/
inductive Opcode
  | and | eor | sub | rsb | add | adc | sbc | rsc | tst | teq | cmp | cmn | orr | mov | bic | mvn
  deriving DecidableEq, Repr

/-- The classes of decoded instructions (30_encoding.md R82). -/
inductive InstrClass
  | dataProcess | multiply | controlImmediate | controlRegister | branchExchange
  | loadStoreExtension | singleDataTransfer | blockDataTransfer | branch
  | coProcessorDataTransfer | coProcessorDataOperation | coProcessorRegisterTransfer
  | softwareInterrupt | undefined
  deriving DecidableEq, Repr

/-- Operand2 of decode row 10: `Imm8` rotated right by twice `Rotate` (30_encoding.md R97, R110). -/
structure ImmOperand where
  rotate : BitVec 4
  imm8   : BitVec 8
  deriving DecidableEq, Repr

/-- Operand2 of decode row 11, and the register offset of a single data transfer: `Rm` shifted by the
5-bit `ShiftImm` (30_encoding.md R97, R100). -/
structure ShiftImmOperand where
  shiftImm : BitVec 5
  type     : ShiftType
  rm       : Reg
  deriving DecidableEq, Repr

/-- Operand2 of decode row 12: `Rm` shifted by the low byte of `Rs` (30_encoding.md R97). -/
structure ShiftRegOperand where
  rs   : Reg
  type : ShiftType
  rm   : Reg
  deriving DecidableEq, Repr

/-- The second operand of a data-processing instruction in its three layouts (30_encoding.md R97). -/
inductive Operand2
  | imm      (o : ImmOperand)
  | shiftImm (o : ShiftImmOperand)
  | shiftReg (o : ShiftRegOperand)
  deriving DecidableEq, Repr

/-- The offset of a single data transfer: bit 25 clear selects the immediate, set the shifted register
(30_encoding.md R100, R112; 90_conflicts.md C3). -/
inductive TransferOffset
  | imm (imm12 : BitVec 12)
  | reg (o : ShiftImmOperand)
  deriving DecidableEq, Repr

/-- The fields of a LoadStoreExtension word that its rows leave free (30_encoding.md R91). -/
structure ExtensionFields where
  p : Bool
  u : Bool
  im : Bool
  w : Bool
  rn : Reg
  rd : Reg
  offHi : BitVec 4
  offLo : BitVec 4
  deriving DecidableEq, Repr

/-- The fields of a long multiply (30_encoding.md R88). -/
structure LongMultiplyFields where
  s : Bool
  rdHi : Reg
  rdLo : Reg
  rs : Reg
  rm : Reg
  deriving DecidableEq, Repr

/-- The fields of a coprocessor data transfer (30_encoding.md R103). -/
structure CoTransferFields where
  p : Bool
  u : Bool
  n : Bool
  w : Bool
  rn : Reg
  crd : BitVec 4
  cpNum : BitVec 4
  offset8 : BitVec 8
  deriving DecidableEq, Repr

/-- The fields of a coprocessor register transfer (30_encoding.md R105). -/
structure CoRegisterFields where
  opc1 : BitVec 3
  crn : BitVec 4
  rd : Reg
  cpNum : BitVec 4
  opc2 : BitVec 3
  crm : BitVec 4
  deriving DecidableEq, Repr

/-- A decoded instruction: one constructor for each row of spec/opcode_table.json. The rows of class
Undefined carry only the raw word, whose top four bits are the condition (30_encoding.md R90; log 12). -/
inductive Instr
  /-- BX, R86 -/
  | bx (c : Cond) (rm : Reg)
  /-- MUL, R87: the should-be-zero `Rn` is kept and ignored -/
  | mul (c : Cond) (s : Bool) (rd rn rs rm : Reg)
  /-- MLA, R87 -/
  | mla (c : Cond) (s : Bool) (rd rn rs rm : Reg)
  /-- UMULL, R88 -/
  | umull (c : Cond) (f : LongMultiplyFields)
  /-- UMLAL, R88 -/
  | umlal (c : Cond) (f : LongMultiplyFields)
  /-- SMULL, R88 -/
  | smull (c : Cond) (f : LongMultiplyFields)
  /-- SMLAL, R88 -/
  | smlal (c : Cond) (f : LongMultiplyFields)
  /-- SWP, of class Undefined, R90 and R273 -/
  | swp (raw : Word)
  /-- SWPB, of class Undefined, R90 and R274 -/
  | swpb (raw : Word)
  /-- UND, the rest of decode row 4, R90 -/
  | undRow4 (raw : Word)
  /-- STRH, R91 -/
  | strh (c : Cond) (f : ExtensionFields)
  /-- LDRH, R91 -/
  | ldrh (c : Cond) (f : ExtensionFields)
  /-- LDRSB, R91 -/
  | ldrsb (c : Cond) (f : ExtensionFields)
  /-- LDRSH, R91 -/
  | ldrsh (c : Cond) (f : ExtensionFields)
  /-- LSE_UNNAMED, the rest of decode row 5: L = 0, Sx = 1, either H, R91 and R265 -/
  | lseUnnamed (c : Cond) (h : Bool) (f : ExtensionFields)
  /-- MRS, R92 -/
  | mrs (c : Cond) (ps : Bool) (rd : Reg)
  /-- MSR with a register operand, R93 -/
  | msrReg (c : Cond) (ps : Bool) (fieldMask : BitVec 4) (rm : Reg)
  /-- MSR with an immediate operand, R94 -/
  | msrImm (c : Cond) (ps : Bool) (fieldMask : BitVec 4) (o : ImmOperand)
  /-- UND, decode row 9, R95 -/
  | undRow9 (raw : Word)
  -- DataProcess, decode row 10, R96; the compare opcodes always have S = 1, R176
  /-- AND, decode row 10, R178 -/
  | andImm (c : Cond) (s : Bool) (rn rd : Reg) (o : ImmOperand)
  /-- EOR, decode row 10, R179 -/
  | eorImm (c : Cond) (s : Bool) (rn rd : Reg) (o : ImmOperand)
  /-- SUB, decode row 10, R180 -/
  | subImm (c : Cond) (s : Bool) (rn rd : Reg) (o : ImmOperand)
  /-- RSB, decode row 10, R181 -/
  | rsbImm (c : Cond) (s : Bool) (rn rd : Reg) (o : ImmOperand)
  /-- ADD, decode row 10, R182 -/
  | addImm (c : Cond) (s : Bool) (rn rd : Reg) (o : ImmOperand)
  /-- ADC, decode row 10, R183 -/
  | adcImm (c : Cond) (s : Bool) (rn rd : Reg) (o : ImmOperand)
  /-- SBC, decode row 10, R184 -/
  | sbcImm (c : Cond) (s : Bool) (rn rd : Reg) (o : ImmOperand)
  /-- RSC, decode row 10, R185 -/
  | rscImm (c : Cond) (s : Bool) (rn rd : Reg) (o : ImmOperand)
  /-- TST, decode row 10, R186 -/
  | tstImm (c : Cond) (rn rd : Reg) (o : ImmOperand)
  /-- TEQ, decode row 10, R187 -/
  | teqImm (c : Cond) (rn rd : Reg) (o : ImmOperand)
  /-- CMP, decode row 10, R188 -/
  | cmpImm (c : Cond) (rn rd : Reg) (o : ImmOperand)
  /-- CMN, decode row 10, R189 -/
  | cmnImm (c : Cond) (rn rd : Reg) (o : ImmOperand)
  /-- ORR, decode row 10, R190 -/
  | orrImm (c : Cond) (s : Bool) (rn rd : Reg) (o : ImmOperand)
  /-- MOV, decode row 10, R191 -/
  | movImm (c : Cond) (s : Bool) (rn rd : Reg) (o : ImmOperand)
  /-- BIC, decode row 10, R192 -/
  | bicImm (c : Cond) (s : Bool) (rn rd : Reg) (o : ImmOperand)
  /-- MVN, decode row 10, R193 -/
  | mvnImm (c : Cond) (s : Bool) (rn rd : Reg) (o : ImmOperand)
  -- DataProcess, decode row 11, R96; the compare opcodes always have S = 1, R176
  /-- AND, decode row 11, R178 -/
  | andShImm (c : Cond) (s : Bool) (rn rd : Reg) (o : ShiftImmOperand)
  /-- EOR, decode row 11, R179 -/
  | eorShImm (c : Cond) (s : Bool) (rn rd : Reg) (o : ShiftImmOperand)
  /-- SUB, decode row 11, R180 -/
  | subShImm (c : Cond) (s : Bool) (rn rd : Reg) (o : ShiftImmOperand)
  /-- RSB, decode row 11, R181 -/
  | rsbShImm (c : Cond) (s : Bool) (rn rd : Reg) (o : ShiftImmOperand)
  /-- ADD, decode row 11, R182 -/
  | addShImm (c : Cond) (s : Bool) (rn rd : Reg) (o : ShiftImmOperand)
  /-- ADC, decode row 11, R183 -/
  | adcShImm (c : Cond) (s : Bool) (rn rd : Reg) (o : ShiftImmOperand)
  /-- SBC, decode row 11, R184 -/
  | sbcShImm (c : Cond) (s : Bool) (rn rd : Reg) (o : ShiftImmOperand)
  /-- RSC, decode row 11, R185 -/
  | rscShImm (c : Cond) (s : Bool) (rn rd : Reg) (o : ShiftImmOperand)
  /-- TST, decode row 11, R186 -/
  | tstShImm (c : Cond) (rn rd : Reg) (o : ShiftImmOperand)
  /-- TEQ, decode row 11, R187 -/
  | teqShImm (c : Cond) (rn rd : Reg) (o : ShiftImmOperand)
  /-- CMP, decode row 11, R188 -/
  | cmpShImm (c : Cond) (rn rd : Reg) (o : ShiftImmOperand)
  /-- CMN, decode row 11, R189 -/
  | cmnShImm (c : Cond) (rn rd : Reg) (o : ShiftImmOperand)
  /-- ORR, decode row 11, R190 -/
  | orrShImm (c : Cond) (s : Bool) (rn rd : Reg) (o : ShiftImmOperand)
  /-- MOV, decode row 11, R191 -/
  | movShImm (c : Cond) (s : Bool) (rn rd : Reg) (o : ShiftImmOperand)
  /-- BIC, decode row 11, R192 -/
  | bicShImm (c : Cond) (s : Bool) (rn rd : Reg) (o : ShiftImmOperand)
  /-- MVN, decode row 11, R193 -/
  | mvnShImm (c : Cond) (s : Bool) (rn rd : Reg) (o : ShiftImmOperand)
  -- DataProcess, decode row 12, R96; the compare opcodes always have S = 1, R176
  /-- AND, decode row 12, R178 -/
  | andShReg (c : Cond) (s : Bool) (rn rd : Reg) (o : ShiftRegOperand)
  /-- EOR, decode row 12, R179 -/
  | eorShReg (c : Cond) (s : Bool) (rn rd : Reg) (o : ShiftRegOperand)
  /-- SUB, decode row 12, R180 -/
  | subShReg (c : Cond) (s : Bool) (rn rd : Reg) (o : ShiftRegOperand)
  /-- RSB, decode row 12, R181 -/
  | rsbShReg (c : Cond) (s : Bool) (rn rd : Reg) (o : ShiftRegOperand)
  /-- ADD, decode row 12, R182 -/
  | addShReg (c : Cond) (s : Bool) (rn rd : Reg) (o : ShiftRegOperand)
  /-- ADC, decode row 12, R183 -/
  | adcShReg (c : Cond) (s : Bool) (rn rd : Reg) (o : ShiftRegOperand)
  /-- SBC, decode row 12, R184 -/
  | sbcShReg (c : Cond) (s : Bool) (rn rd : Reg) (o : ShiftRegOperand)
  /-- RSC, decode row 12, R185 -/
  | rscShReg (c : Cond) (s : Bool) (rn rd : Reg) (o : ShiftRegOperand)
  /-- TST, decode row 12, R186 -/
  | tstShReg (c : Cond) (rn rd : Reg) (o : ShiftRegOperand)
  /-- TEQ, decode row 12, R187 -/
  | teqShReg (c : Cond) (rn rd : Reg) (o : ShiftRegOperand)
  /-- CMP, decode row 12, R188 -/
  | cmpShReg (c : Cond) (rn rd : Reg) (o : ShiftRegOperand)
  /-- CMN, decode row 12, R189 -/
  | cmnShReg (c : Cond) (rn rd : Reg) (o : ShiftRegOperand)
  /-- ORR, decode row 12, R190 -/
  | orrShReg (c : Cond) (s : Bool) (rn rd : Reg) (o : ShiftRegOperand)
  /-- MOV, decode row 12, R191 -/
  | movShReg (c : Cond) (s : Bool) (rn rd : Reg) (o : ShiftRegOperand)
  /-- BIC, decode row 12, R192 -/
  | bicShReg (c : Cond) (s : Bool) (rn rd : Reg) (o : ShiftRegOperand)
  /-- MVN, decode row 12, R193 -/
  | mvnShReg (c : Cond) (s : Bool) (rn rd : Reg) (o : ShiftRegOperand)
  /-- UND, decode row 13, R99 -/
  | undRow13 (raw : Word)
  /-- LDRT: B = 0, P = 0, W = 1, R223 -/
  | ldrt (c : Cond) (u : Bool) (rn rd : Reg) (off : TransferOffset)
  /-- STRT: B = 0, P = 0, W = 1, R224 -/
  | strt (c : Cond) (u : Bool) (rn rd : Reg) (off : TransferOffset)
  /-- LDRBT: B = 1, P = 0, W = 1, R225 -/
  | ldrbt (c : Cond) (u : Bool) (rn rd : Reg) (off : TransferOffset)
  /-- STRBT: B = 1, P = 0, W = 1, R226 -/
  | strbt (c : Cond) (u : Bool) (rn rd : Reg) (off : TransferOffset)
  /-- LDR: B = 0, R217 -/
  | ldr (c : Cond) (p u w : Bool) (rn rd : Reg) (off : TransferOffset)
  /-- STR: B = 0, R219 -/
  | str (c : Cond) (p u w : Bool) (rn rd : Reg) (off : TransferOffset)
  /-- LDRB: B = 1, R221 -/
  | ldrb (c : Cond) (p u w : Bool) (rn rd : Reg) (off : TransferOffset)
  /-- STRB: B = 1, R222 -/
  | strb (c : Cond) (p u w : Bool) (rn rd : Reg) (off : TransferOffset)
  /-- LDMIA, R240 -/
  | ldmia (c : Cond) (sb w : Bool) (rn : Reg) (list : BitVec 16)
  /-- LDMIB, R241 -/
  | ldmib (c : Cond) (sb w : Bool) (rn : Reg) (list : BitVec 16)
  /-- LDMDA, R242 -/
  | ldmda (c : Cond) (sb w : Bool) (rn : Reg) (list : BitVec 16)
  /-- LDMDB, R243 -/
  | ldmdb (c : Cond) (sb w : Bool) (rn : Reg) (list : BitVec 16)
  /-- STMIA, R244 -/
  | stmia (c : Cond) (sb w : Bool) (rn : Reg) (list : BitVec 16)
  /-- STMIB, R245 -/
  | stmib (c : Cond) (sb w : Bool) (rn : Reg) (list : BitVec 16)
  /-- STMDA, R246 -/
  | stmda (c : Cond) (sb w : Bool) (rn : Reg) (list : BitVec 16)
  /-- STMDB, R247 -/
  | stmdb (c : Cond) (sb w : Bool) (rn : Reg) (list : BitVec 16)
  /-- B, R201 -/
  | b (c : Cond) (offset24 : BitVec 24)
  /-- BL, R202 -/
  | bl (c : Cond) (offset24 : BitVec 24)
  /-- LDC, R266 -/
  | ldc (c : Cond) (f : CoTransferFields)
  /-- STC, R267 -/
  | stc (c : Cond) (f : CoTransferFields)
  /-- CDP, R268 -/
  | cdp (c : Cond) (opc1 crn crd cpNum : BitVec 4) (opc2 : BitVec 3) (crm : BitVec 4)
  /-- MCR, R269 -/
  | mcr (c : Cond) (f : CoRegisterFields)
  /-- MRC, R270 -/
  | mrc (c : Cond) (f : CoRegisterFields)
  /-- SWI, R271 -/
  | swi (c : Cond) (comment24 : BitVec 24)
  /-- UND, the last row, which no word reaches, R107 -/
  | undLast (raw : Word)
  deriving DecidableEq, Repr

end Sys2Proof
end

