-- ==== Sys2Proof/WellFormed.lean ====
section
/-! DEFINITION. Which instruction terms stand for a word of their own row (30_encoding.md R84, R122). -/

namespace Sys2Proof

/-- A word matches a row (mask, pattern) when `(w AND mask) = pattern` (30_encoding.md R84). -/
def Word.hits (w mask pattern : Word) : Bool := w &&& mask == pattern

/-- The words of decode row 4 that no earlier row of the table takes (R84 rows 2 to 4, R90). -/
def Word.inRow4Remainder (w : Word) : Bool :=
  w.hits 0x0E0000F0 0x00000090
    && !w.hits 0x0FC000F0 0x00000090    -- decode row 2
    && !w.hits 0x0F8000F0 0x00800090    -- decode row 3
    && !w.hits 0x0FF00FF0 0x01000090    -- SWP
    && !w.hits 0x0FF00FF0 0x01400090    -- SWPB

/-- The words of decode row 9 that no earlier row takes (R84 rows 1, 4 to 9, R95). -/
def Word.inRow9Remainder (w : Word) : Bool :=
  w.hits 0x0D900000 0x01000000
    && !w.hits 0x0FFFFFF0 0x012FFF10    -- decode row 1
    && !w.hits 0x0E0000F0 0x00000090    -- decode row 4
    && !w.hits 0x0E000090 0x00000090    -- decode row 5
    && !w.hits 0x0FBF0FFF 0x010F0000    -- decode row 6
    && !w.hits 0x0FB0FFF0 0x0120F000    -- decode row 7
    && !w.hits 0x0FB0F000 0x0320F000    -- decode row 8

/-- An instruction is well formed when its encoding belongs to its own row. The typed fields leave
three things to check: a raw word kept by a row of class Undefined lies in that row; `undLast` stands
for no word (R107); and LDR, STR, LDRB, STRB with P = 0 and W = 1 are the T forms, which have rows of
their own (44_single_data_transfer.md R221 to R226). -/
def Instr.wf : Instr → Bool
  | .swp raw => raw.hits 0x0FF00FF0 0x01000090
  | .swpb raw => raw.hits 0x0FF00FF0 0x01400090
  | .undRow4 raw => raw.inRow4Remainder
  | .undRow9 raw => raw.inRow9Remainder
  | .undRow13 raw => raw.hits 0x0E000010 0x06000010
  | .undLast _ => false
  | .ldr _ p _ w _ _ _ => p || !w
  | .str _ p _ w _ _ _ => p || !w
  | .ldrb _ p _ w _ _ _ => p || !w
  | .strb _ p _ w _ _ _ => p || !w
  | .bx .. | .mul .. | .mla .. | .umull .. | .umlal .. | .smull .. | .smlal .. => true
  | .strh .. | .ldrh .. | .ldrsb .. | .ldrsh .. | .lseUnnamed .. => true
  | .mrs .. | .msrReg .. | .msrImm .. => true
  | .andImm .. | .eorImm .. | .subImm .. | .rsbImm .. => true
  | .addImm .. | .adcImm .. | .sbcImm .. | .rscImm .. => true
  | .tstImm .. | .teqImm .. | .cmpImm .. | .cmnImm .. => true
  | .orrImm .. | .movImm .. | .bicImm .. | .mvnImm .. => true
  | .andShImm .. | .eorShImm .. | .subShImm .. | .rsbShImm .. => true
  | .addShImm .. | .adcShImm .. | .sbcShImm .. | .rscShImm .. => true
  | .tstShImm .. | .teqShImm .. | .cmpShImm .. | .cmnShImm .. => true
  | .orrShImm .. | .movShImm .. | .bicShImm .. | .mvnShImm .. => true
  | .andShReg .. | .eorShReg .. | .subShReg .. | .rsbShReg .. => true
  | .addShReg .. | .adcShReg .. | .sbcShReg .. | .rscShReg .. => true
  | .tstShReg .. | .teqShReg .. | .cmpShReg .. | .cmnShReg .. => true
  | .orrShReg .. | .movShReg .. | .bicShReg .. | .mvnShReg .. => true
  | .ldrt .. | .strt .. | .ldrbt .. | .strbt .. => true
  | .ldmia .. | .ldmib .. | .ldmda .. | .ldmdb .. => true
  | .stmia .. | .stmib .. | .stmda .. | .stmdb .. => true
  | .b .. | .bl .. | .ldc .. | .stc .. | .cdp .. | .mcr .. | .mrc .. | .swi .. => true

end Sys2Proof
end

