-- ==== Sys2Proof/Decode.lean ====
section
/-! DEFINITION. The decoder, a total function from words (30_encoding.md R81, R84, R122), and after it
the encoder, written from the format tables R86 to R106. Bit positions and masks are the ARMv4T ones
the spec supplies from general knowledge (its decision D3; log 13). -/

namespace Sys2Proof

/-! ## Codes of the named fields -/

/-- The condition a 4-bit code names (R109). -/
def Cond.ofCode (n : BitVec 4) : Cond :=
  match n with
  | 0x0 => .eq | 0x1 => .ne | 0x2 => .cs | 0x3 => .cc | 0x4 => .mi | 0x5 => .pl | 0x6 => .vs
  | 0x7 => .vc | 0x8 => .hi | 0x9 => .ls | 0xA => .ge | 0xB => .lt | 0xC => .gt | 0xD => .le
  | 0xE => .al | _ => .nv

/-- The 4-bit code of a condition (R109). -/
def Cond.code : Cond → BitVec 4
  | .eq => 0x0 | .ne => 0x1 | .cs => 0x2 | .cc => 0x3 | .mi => 0x4 | .pl => 0x5 | .vs => 0x6
  | .vc => 0x7 | .hi => 0x8 | .ls => 0x9 | .ge => 0xA | .lt => 0xB | .gt => 0xC | .le => 0xD
  | .al => 0xE | .nv => 0xF

/-- The shift type a 2-bit code names (R97; 41_shifter_operand.md R154). -/
def ShiftType.ofCode (n : BitVec 2) : ShiftType :=
  match n with
  | 0 => .lsl | 1 => .lsr | 2 => .asr | _ => .ror

/-- The 2-bit code of a shift type (R97; 41_shifter_operand.md R154). -/
def ShiftType.code : ShiftType → BitVec 2
  | .lsl => 0 | .lsr => 1 | .asr => 2 | .ror => 3

/-- The Opcode field of a data-processing opcode (R98). -/
def Opcode.code : Opcode → BitVec 4
  | .and => 0x0 | .eor => 0x1 | .sub => 0x2 | .rsb => 0x3 | .add => 0x4 | .adc => 0x5 | .sbc => 0x6
  | .rsc => 0x7 | .tst => 0x8 | .teq => 0x9 | .cmp => 0xA | .cmn => 0xB | .orr => 0xC | .mov => 0xD
  | .bic => 0xE | .mvn => 0xF

/-! ## Field extraction (R86 to R106) -/

/-- `w[lo + n - 1 : lo]`, the `n` bits of `w` from bit `lo` up (00_scope.md R10). -/
def Word.field (w : Word) (lo n : Nat) : BitVec n := w.extractLsb' lo n

/-- `w[i]` as a Boolean (00_scope.md R10). -/
def Word.bit (w : Word) (i : Nat) : Bool := w.getLsbD i

/-- `cond`, bits 31:28 of every word (R80). -/
def Word.condField (w : Word) : Cond := Cond.ofCode (w.field 28 4)

/-- Bits 19:16: Rn, or Rd of a multiply. -/
def Word.reg16 (w : Word) : Reg := w.field 16 4

/-- Bits 15:12: Rd, or Rn of a multiply. -/
def Word.reg12 (w : Word) : Reg := w.field 12 4

/-- Bits 11:8: Rs. -/
def Word.reg8 (w : Word) : Reg := w.field 8 4

/-- Bits 3:0: Rm. -/
def Word.reg0 (w : Word) : Reg := w.field 0 4

/-- Operand2 of decode row 10 (R97). -/
def Word.immOperand (w : Word) : ImmOperand := ⟨w.field 8 4, w.field 0 8⟩

/-- Operand2 of decode row 11 (R97). -/
def Word.shiftImmOperand (w : Word) : ShiftImmOperand :=
  ⟨w.field 7 5, ShiftType.ofCode (w.field 5 2), w.reg0⟩

/-- Operand2 of decode row 12 (R97). -/
def Word.shiftRegOperand (w : Word) : ShiftRegOperand :=
  ⟨w.reg8, ShiftType.ofCode (w.field 5 2), w.reg0⟩

/-- The offset of a single data transfer, selected by bit 25 (R100). -/
def Word.transferOffset (w : Word) : TransferOffset :=
  if w.bit 25 then .reg w.shiftImmOperand else .imm (w.field 0 12)

/-- The fields of R91. -/
def Word.extensionFields (w : Word) : ExtensionFields :=
  ⟨w.bit 24, w.bit 23, w.bit 22, w.bit 21, w.reg16, w.reg12, w.field 8 4, w.field 0 4⟩

/-- The fields of R88. -/
def Word.longMultiplyFields (w : Word) : LongMultiplyFields :=
  ⟨w.bit 20, w.reg16, w.reg12, w.reg8, w.reg0⟩

/-- The fields of R103. -/
def Word.coTransferFields (w : Word) : CoTransferFields :=
  ⟨w.bit 24, w.bit 23, w.bit 22, w.bit 21, w.reg16, w.field 12 4, w.field 8 4, w.field 0 8⟩

/-- The fields of R105. -/
def Word.coRegisterFields (w : Word) : CoRegisterFields :=
  ⟨w.field 21 3, w.field 16 4, w.reg12, w.field 8 4, w.field 5 3, w.field 0 4⟩

/-! ## Immediates of the unexecuted classes (R115); the comment of a SWI is its 24-bit field as it stands -/

/-- The immediate offset of a halfword or signed transfer: `zext_32(OffHi ++ OffLo)` (R115). -/
def ExtensionFields.immOffset (f : ExtensionFields) : Word := (f.offHi ++ f.offLo).setWidth 32

/-- The offset of a coprocessor data transfer: `zext_32(Offset8) << 2` (R115). -/
def CoTransferFields.offset (f : CoTransferFields) : Word := f.offset8.setWidth 32 <<< 2

/-! ## The opcode table -/

/-- A row of the opcode table: the words it matches, and the instruction it reads from one. -/
structure Row where
  mask    : Word
  pattern : Word
  read    : Word → Instr

/-- The row matches `w` (R84). -/
def Row.hits (r : Row) (w : Word) : Bool := w.hits r.mask r.pattern

/-- Rows of decode rows 1 to 4 (R86 to R90). -/
def rowsMultiply : List Row := [
  ⟨0x0FFFFFF0, 0x012FFF10, fun w => .bx w.condField w.reg0⟩,
  ⟨0x0FE000F0, 0x00000090, fun w => .mul w.condField (w.bit 20) w.reg16 w.reg12 w.reg8 w.reg0⟩,
  ⟨0x0FE000F0, 0x00200090, fun w => .mla w.condField (w.bit 20) w.reg16 w.reg12 w.reg8 w.reg0⟩,
  ⟨0x0FE000F0, 0x00800090, fun w => .umull w.condField w.longMultiplyFields⟩,
  ⟨0x0FE000F0, 0x00A00090, fun w => .umlal w.condField w.longMultiplyFields⟩,
  ⟨0x0FE000F0, 0x00C00090, fun w => .smull w.condField w.longMultiplyFields⟩,
  ⟨0x0FE000F0, 0x00E00090, fun w => .smlal w.condField w.longMultiplyFields⟩,
  ⟨0x0FF00FF0, 0x01000090, fun w => .swp w⟩,
  ⟨0x0FF00FF0, 0x01400090, fun w => .swpb w⟩,
  ⟨0x0E0000F0, 0x00000090, fun w => .undRow4 w⟩]

/-- Rows of decode rows 5 to 9 (R91 to R95). -/
def rowsControl : List Row := [
  ⟨0x0E1000F0, 0x000000B0, fun w => .strh w.condField w.extensionFields⟩,
  ⟨0x0E1000F0, 0x001000B0, fun w => .ldrh w.condField w.extensionFields⟩,
  ⟨0x0E1000F0, 0x001000D0, fun w => .ldrsb w.condField w.extensionFields⟩,
  ⟨0x0E1000F0, 0x001000F0, fun w => .ldrsh w.condField w.extensionFields⟩,
  ⟨0x0E000090, 0x00000090, fun w => .lseUnnamed w.condField (w.bit 5) w.extensionFields⟩,
  ⟨0x0FBF0FFF, 0x010F0000, fun w => .mrs w.condField (w.bit 22) w.reg12⟩,
  ⟨0x0FB0FFF0, 0x0120F000, fun w => .msrReg w.condField (w.bit 22) (w.field 16 4) w.reg0⟩,
  ⟨0x0FB0F000, 0x0320F000, fun w => .msrImm w.condField (w.bit 22) (w.field 16 4) w.immOperand⟩,
  ⟨0x0D900000, 0x01000000, fun w => .undRow9 w⟩]

/-- Rows of decode row 10 (R96, R98). -/
def rowsDataImm : List Row := [
  ⟨0x0FE00000, 0x02000000, fun w => .andImm w.condField (w.bit 20) w.reg16 w.reg12 w.immOperand⟩,
  ⟨0x0FE00000, 0x02200000, fun w => .eorImm w.condField (w.bit 20) w.reg16 w.reg12 w.immOperand⟩,
  ⟨0x0FE00000, 0x02400000, fun w => .subImm w.condField (w.bit 20) w.reg16 w.reg12 w.immOperand⟩,
  ⟨0x0FE00000, 0x02600000, fun w => .rsbImm w.condField (w.bit 20) w.reg16 w.reg12 w.immOperand⟩,
  ⟨0x0FE00000, 0x02800000, fun w => .addImm w.condField (w.bit 20) w.reg16 w.reg12 w.immOperand⟩,
  ⟨0x0FE00000, 0x02A00000, fun w => .adcImm w.condField (w.bit 20) w.reg16 w.reg12 w.immOperand⟩,
  ⟨0x0FE00000, 0x02C00000, fun w => .sbcImm w.condField (w.bit 20) w.reg16 w.reg12 w.immOperand⟩,
  ⟨0x0FE00000, 0x02E00000, fun w => .rscImm w.condField (w.bit 20) w.reg16 w.reg12 w.immOperand⟩,
  ⟨0x0FF00000, 0x03100000, fun w => .tstImm w.condField w.reg16 w.reg12 w.immOperand⟩,
  ⟨0x0FF00000, 0x03300000, fun w => .teqImm w.condField w.reg16 w.reg12 w.immOperand⟩,
  ⟨0x0FF00000, 0x03500000, fun w => .cmpImm w.condField w.reg16 w.reg12 w.immOperand⟩,
  ⟨0x0FF00000, 0x03700000, fun w => .cmnImm w.condField w.reg16 w.reg12 w.immOperand⟩,
  ⟨0x0FE00000, 0x03800000, fun w => .orrImm w.condField (w.bit 20) w.reg16 w.reg12 w.immOperand⟩,
  ⟨0x0FE00000, 0x03A00000, fun w => .movImm w.condField (w.bit 20) w.reg16 w.reg12 w.immOperand⟩,
  ⟨0x0FE00000, 0x03C00000, fun w => .bicImm w.condField (w.bit 20) w.reg16 w.reg12 w.immOperand⟩,
  ⟨0x0FE00000, 0x03E00000, fun w => .mvnImm w.condField (w.bit 20) w.reg16 w.reg12 w.immOperand⟩]

/-- Rows of decode row 11 (R96, R98). -/
def rowsDataShImm : List Row := [
  ⟨0x0FE00010, 0x00000000, fun w => .andShImm w.condField (w.bit 20) w.reg16 w.reg12 w.shiftImmOperand⟩,
  ⟨0x0FE00010, 0x00200000, fun w => .eorShImm w.condField (w.bit 20) w.reg16 w.reg12 w.shiftImmOperand⟩,
  ⟨0x0FE00010, 0x00400000, fun w => .subShImm w.condField (w.bit 20) w.reg16 w.reg12 w.shiftImmOperand⟩,
  ⟨0x0FE00010, 0x00600000, fun w => .rsbShImm w.condField (w.bit 20) w.reg16 w.reg12 w.shiftImmOperand⟩,
  ⟨0x0FE00010, 0x00800000, fun w => .addShImm w.condField (w.bit 20) w.reg16 w.reg12 w.shiftImmOperand⟩,
  ⟨0x0FE00010, 0x00A00000, fun w => .adcShImm w.condField (w.bit 20) w.reg16 w.reg12 w.shiftImmOperand⟩,
  ⟨0x0FE00010, 0x00C00000, fun w => .sbcShImm w.condField (w.bit 20) w.reg16 w.reg12 w.shiftImmOperand⟩,
  ⟨0x0FE00010, 0x00E00000, fun w => .rscShImm w.condField (w.bit 20) w.reg16 w.reg12 w.shiftImmOperand⟩,
  ⟨0x0FF00010, 0x01100000, fun w => .tstShImm w.condField w.reg16 w.reg12 w.shiftImmOperand⟩,
  ⟨0x0FF00010, 0x01300000, fun w => .teqShImm w.condField w.reg16 w.reg12 w.shiftImmOperand⟩,
  ⟨0x0FF00010, 0x01500000, fun w => .cmpShImm w.condField w.reg16 w.reg12 w.shiftImmOperand⟩,
  ⟨0x0FF00010, 0x01700000, fun w => .cmnShImm w.condField w.reg16 w.reg12 w.shiftImmOperand⟩,
  ⟨0x0FE00010, 0x01800000, fun w => .orrShImm w.condField (w.bit 20) w.reg16 w.reg12 w.shiftImmOperand⟩,
  ⟨0x0FE00010, 0x01A00000, fun w => .movShImm w.condField (w.bit 20) w.reg16 w.reg12 w.shiftImmOperand⟩,
  ⟨0x0FE00010, 0x01C00000, fun w => .bicShImm w.condField (w.bit 20) w.reg16 w.reg12 w.shiftImmOperand⟩,
  ⟨0x0FE00010, 0x01E00000, fun w => .mvnShImm w.condField (w.bit 20) w.reg16 w.reg12 w.shiftImmOperand⟩]

/-- Rows of decode row 12 (R96, R98). -/
def rowsDataShReg : List Row := [
  ⟨0x0FE00090, 0x00000010, fun w => .andShReg w.condField (w.bit 20) w.reg16 w.reg12 w.shiftRegOperand⟩,
  ⟨0x0FE00090, 0x00200010, fun w => .eorShReg w.condField (w.bit 20) w.reg16 w.reg12 w.shiftRegOperand⟩,
  ⟨0x0FE00090, 0x00400010, fun w => .subShReg w.condField (w.bit 20) w.reg16 w.reg12 w.shiftRegOperand⟩,
  ⟨0x0FE00090, 0x00600010, fun w => .rsbShReg w.condField (w.bit 20) w.reg16 w.reg12 w.shiftRegOperand⟩,
  ⟨0x0FE00090, 0x00800010, fun w => .addShReg w.condField (w.bit 20) w.reg16 w.reg12 w.shiftRegOperand⟩,
  ⟨0x0FE00090, 0x00A00010, fun w => .adcShReg w.condField (w.bit 20) w.reg16 w.reg12 w.shiftRegOperand⟩,
  ⟨0x0FE00090, 0x00C00010, fun w => .sbcShReg w.condField (w.bit 20) w.reg16 w.reg12 w.shiftRegOperand⟩,
  ⟨0x0FE00090, 0x00E00010, fun w => .rscShReg w.condField (w.bit 20) w.reg16 w.reg12 w.shiftRegOperand⟩,
  ⟨0x0FF00090, 0x01100010, fun w => .tstShReg w.condField w.reg16 w.reg12 w.shiftRegOperand⟩,
  ⟨0x0FF00090, 0x01300010, fun w => .teqShReg w.condField w.reg16 w.reg12 w.shiftRegOperand⟩,
  ⟨0x0FF00090, 0x01500010, fun w => .cmpShReg w.condField w.reg16 w.reg12 w.shiftRegOperand⟩,
  ⟨0x0FF00090, 0x01700010, fun w => .cmnShReg w.condField w.reg16 w.reg12 w.shiftRegOperand⟩,
  ⟨0x0FE00090, 0x01800010, fun w => .orrShReg w.condField (w.bit 20) w.reg16 w.reg12 w.shiftRegOperand⟩,
  ⟨0x0FE00090, 0x01A00010, fun w => .movShReg w.condField (w.bit 20) w.reg16 w.reg12 w.shiftRegOperand⟩,
  ⟨0x0FE00090, 0x01C00010, fun w => .bicShReg w.condField (w.bit 20) w.reg16 w.reg12 w.shiftRegOperand⟩,
  ⟨0x0FE00090, 0x01E00010, fun w => .mvnShReg w.condField (w.bit 20) w.reg16 w.reg12 w.shiftRegOperand⟩]

/-- Rows of decode rows 13 to 15 (R99 to R101). -/
def rowsTransfer : List Row := [
  ⟨0x0E000010, 0x06000010, fun w => .undRow13 w⟩,
  ⟨0x0D700000, 0x04300000, fun w => .ldrt w.condField (w.bit 23) w.reg16 w.reg12 w.transferOffset⟩,
  ⟨0x0D700000, 0x04200000, fun w => .strt w.condField (w.bit 23) w.reg16 w.reg12 w.transferOffset⟩,
  ⟨0x0D700000, 0x04700000, fun w => .ldrbt w.condField (w.bit 23) w.reg16 w.reg12 w.transferOffset⟩,
  ⟨0x0D700000, 0x04600000, fun w => .strbt w.condField (w.bit 23) w.reg16 w.reg12 w.transferOffset⟩,
  ⟨0x0C500000, 0x04100000, fun w => .ldr w.condField (w.bit 24) (w.bit 23) (w.bit 21) w.reg16 w.reg12 w.transferOffset⟩,
  ⟨0x0C500000, 0x04000000, fun w => .str w.condField (w.bit 24) (w.bit 23) (w.bit 21) w.reg16 w.reg12 w.transferOffset⟩,
  ⟨0x0C500000, 0x04500000, fun w => .ldrb w.condField (w.bit 24) (w.bit 23) (w.bit 21) w.reg16 w.reg12 w.transferOffset⟩,
  ⟨0x0C500000, 0x04400000, fun w => .strb w.condField (w.bit 24) (w.bit 23) (w.bit 21) w.reg16 w.reg12 w.transferOffset⟩,
  ⟨0x0F900000, 0x08900000, fun w => .ldmia w.condField (w.bit 22) (w.bit 21) w.reg16 (w.field 0 16)⟩,
  ⟨0x0F900000, 0x09900000, fun w => .ldmib w.condField (w.bit 22) (w.bit 21) w.reg16 (w.field 0 16)⟩,
  ⟨0x0F900000, 0x08100000, fun w => .ldmda w.condField (w.bit 22) (w.bit 21) w.reg16 (w.field 0 16)⟩,
  ⟨0x0F900000, 0x09100000, fun w => .ldmdb w.condField (w.bit 22) (w.bit 21) w.reg16 (w.field 0 16)⟩,
  ⟨0x0F900000, 0x08800000, fun w => .stmia w.condField (w.bit 22) (w.bit 21) w.reg16 (w.field 0 16)⟩,
  ⟨0x0F900000, 0x09800000, fun w => .stmib w.condField (w.bit 22) (w.bit 21) w.reg16 (w.field 0 16)⟩,
  ⟨0x0F900000, 0x08000000, fun w => .stmda w.condField (w.bit 22) (w.bit 21) w.reg16 (w.field 0 16)⟩,
  ⟨0x0F900000, 0x09000000, fun w => .stmdb w.condField (w.bit 22) (w.bit 21) w.reg16 (w.field 0 16)⟩]

/-- Rows of decode rows 16 to 20 and the last row (R102 to R107). -/
def rowsTail : List Row := [
  ⟨0x0F000000, 0x0A000000, fun w => .b w.condField (w.field 0 24)⟩,
  ⟨0x0F000000, 0x0B000000, fun w => .bl w.condField (w.field 0 24)⟩,
  ⟨0x0E100000, 0x0C100000, fun w => .ldc w.condField w.coTransferFields⟩,
  ⟨0x0E100000, 0x0C000000, fun w => .stc w.condField w.coTransferFields⟩,
  ⟨0x0F000010, 0x0E000000, fun w => .cdp w.condField (w.field 20 4) (w.field 16 4) (w.field 12 4) (w.field 8 4) (w.field 5 3) (w.field 0 4)⟩,
  ⟨0x0F100010, 0x0E000010, fun w => .mcr w.condField w.coRegisterFields⟩,
  ⟨0x0F100010, 0x0E100010, fun w => .mrc w.condField w.coRegisterFields⟩,
  ⟨0x0F000000, 0x0F000000, fun w => .swi w.condField (w.field 0 24)⟩,
  ⟨0x00000000, 0x00000000, fun w => .undLast w⟩]

/-- The 93 rows of the opcode table in its order (R122). -/
def rows : List Row :=
  rowsMultiply ++ (rowsControl ++ (rowsDataImm ++ (rowsDataShImm ++ (rowsDataShReg ++ (rowsTransfer ++
    rowsTail)))))

/-- The decoder: the instruction read by the first row that matches, "anything matching none becomes
Undefined" (R81, R84, R107). -/
def decode (w : Word) : Instr :=
  match rows.find? (·.hits w) with
  | some r => r.read w
  | none => .undLast w

/-- Why bytes hold no instruction word. -/
inductive DecodeError
  /-- fewer than the four bytes of an instruction (R80) -/
  | tooShort (have_ : Nat)
  deriving DecidableEq, Repr

/-- The word whose bytes stand at four rising addresses, the least significant first: the
little-endian order that a platform "should use" (20_memory.md R68; log 4). -/
def littleEndianWord (b0 b1 b2 b3 : Byte) : Word := b3 ++ b2 ++ b1 ++ b0

/-- Decoding from bytes laid out as such a platform stores them: an instruction is four bytes (R80);
fewer are rejected by name, four are never rejected (R81). -/
def decodeBytes : List Byte → Except DecodeError (Instr × List Byte)
  | b0 :: b1 :: b2 :: b3 :: rest => .ok (decode (littleEndianWord b0 b1 b2 b3), rest)
  | bs => .error (.tooShort bs.length)

/-- The instruction read from a table word of `nbits` bits, the instruction's other bits being 0; a
number that does not fit its bits, or more bits than an instruction has, is no word (log 18). -/
def decodeTableWord (nbits w : Nat) : Option Instr :=
  if nbits ≤ 32 ∧ w < 2 ^ nbits then
    let word := BitVec.ofNat 32 w
    match decodeBytes [word.extractLsb' 0 8, word.extractLsb' 8 8, word.extractLsb' 16 8,
        word.extractLsb' 24 8] with
    | .ok (i, _) => some i
    | .error _ => none
  else none

/-! ## The encoder: one format per class -/

/-- R86 -/
def bxWord (c : Cond) (rm : Reg) : Word := c.code ++ 0x12FFF1#24 ++ rm

/-- R87 -/
def multiplyWord (c : Cond) (a s : Bool) (rd rn rs rm : Reg) : Word :=
  c.code ++ 0b000000#6 ++ BitVec.ofBool a ++ BitVec.ofBool s ++ rd ++ rn ++ rs ++ 0b1001#4 ++ rm

/-- R88 -/
def longMultiplyWord (c : Cond) (sg a : Bool) (f : LongMultiplyFields) : Word :=
  c.code ++ 0b00001#5 ++ BitVec.ofBool sg ++ BitVec.ofBool a ++ BitVec.ofBool f.s ++ f.rdHi ++ f.rdLo
    ++ f.rs ++ 0b1001#4 ++ f.rm

/-- R91 -/
def extensionWord (c : Cond) (l sx h : Bool) (f : ExtensionFields) : Word :=
  c.code ++ 0b000#3 ++ BitVec.ofBool f.p ++ BitVec.ofBool f.u ++ BitVec.ofBool f.im
    ++ BitVec.ofBool f.w ++ BitVec.ofBool l ++ f.rn ++ f.rd ++ f.offHi ++ 0b1#1 ++ BitVec.ofBool sx
    ++ BitVec.ofBool h ++ 0b1#1 ++ f.offLo

/-- R92 -/
def mrsWord (c : Cond) (ps : Bool) (rd : Reg) : Word :=
  c.code ++ 0b00010#5 ++ BitVec.ofBool ps ++ 0b001111#6 ++ rd ++ 0b000000000000#12

/-- R93 -/
def msrRegWord (c : Cond) (ps : Bool) (fieldMask : BitVec 4) (rm : Reg) : Word :=
  c.code ++ 0b00010#5 ++ BitVec.ofBool ps ++ 0b10#2 ++ fieldMask ++ 0b1111#4 ++ 0b00000000#8 ++ rm

/-- R94 -/
def msrImmWord (c : Cond) (ps : Bool) (fieldMask : BitVec 4) (o : ImmOperand) : Word :=
  c.code ++ 0b00110#5 ++ BitVec.ofBool ps ++ 0b10#2 ++ fieldMask ++ 0b1111#4 ++ o.rotate ++ o.imm8

/-- R96 -/
def dataProcessWord (c : Cond) (i : Bool) (op : Opcode) (s : Bool) (rn rd : Reg)
    (operand2 : BitVec 12) : Word :=
  c.code ++ 0b00#2 ++ BitVec.ofBool i ++ op.code ++ BitVec.ofBool s ++ rn ++ rd ++ operand2

/-- R97, decode row 10 -/
def ImmOperand.bits (o : ImmOperand) : BitVec 12 := o.rotate ++ o.imm8

/-- R97, decode row 11 -/
def ShiftImmOperand.bits (o : ShiftImmOperand) : BitVec 12 :=
  o.shiftImm ++ o.type.code ++ 0b0#1 ++ o.rm

/-- R97, decode row 12 -/
def ShiftRegOperand.bits (o : ShiftRegOperand) : BitVec 12 :=
  o.rs ++ 0b0#1 ++ o.type.code ++ 0b1#1 ++ o.rm

/-- Bit 25 of a single data transfer: set for the register offset (R100). -/
def TransferOffset.isReg : TransferOffset → Bool
  | .imm _ => false
  | .reg _ => true

/-- Bits 11:0 of a single data transfer (R100). -/
def TransferOffset.bits : TransferOffset → BitVec 12
  | .imm imm12 => imm12
  | .reg o => o.bits

/-- R100 -/
def transferWord (c : Cond) (p u b w l : Bool) (rn rd : Reg) (off : TransferOffset) : Word :=
  c.code ++ 0b01#2 ++ BitVec.ofBool off.isReg ++ BitVec.ofBool p ++ BitVec.ofBool u ++ BitVec.ofBool b
    ++ BitVec.ofBool w ++ BitVec.ofBool l ++ rn ++ rd ++ off.bits

/-- R101 -/
def blockWord (c : Cond) (p u sb w l : Bool) (rn : Reg) (list : BitVec 16) : Word :=
  c.code ++ 0b100#3 ++ BitVec.ofBool p ++ BitVec.ofBool u ++ BitVec.ofBool sb ++ BitVec.ofBool w
    ++ BitVec.ofBool l ++ rn ++ list

/-- R102 -/
def branchWord (c : Cond) (lk : Bool) (offset24 : BitVec 24) : Word :=
  c.code ++ 0b101#3 ++ BitVec.ofBool lk ++ offset24

/-- R103 -/
def coTransferWord (c : Cond) (l : Bool) (f : CoTransferFields) : Word :=
  c.code ++ 0b110#3 ++ BitVec.ofBool f.p ++ BitVec.ofBool f.u ++ BitVec.ofBool f.n ++ BitVec.ofBool f.w
    ++ BitVec.ofBool l ++ f.rn ++ f.crd ++ f.cpNum ++ f.offset8

/-- R104 -/
def coOperationWord (c : Cond) (opc1 crn crd cpNum : BitVec 4) (opc2 : BitVec 3) (crm : BitVec 4) :
    Word :=
  c.code ++ 0b1110#4 ++ opc1 ++ crn ++ crd ++ cpNum ++ opc2 ++ 0b0#1 ++ crm

/-- R105 -/
def coRegisterWord (c : Cond) (l : Bool) (f : CoRegisterFields) : Word :=
  c.code ++ 0b1110#4 ++ f.opc1 ++ BitVec.ofBool l ++ f.crn ++ f.rd ++ f.cpNum ++ f.opc2 ++ 0b1#1 ++ f.crm

/-- R106 -/
def swiWord (c : Cond) (comment24 : BitVec 24) : Word := c.code ++ 0b1111#4 ++ comment24

/-- The raw word of an instruction: the word a decoded instruction keeps (R83). -/
def encode : Instr → Word
  | .bx c rm => bxWord c rm
  | .mul c s rd rn rs rm => multiplyWord c false s rd rn rs rm
  | .mla c s rd rn rs rm => multiplyWord c true s rd rn rs rm
  | .umull c f => longMultiplyWord c false false f
  | .umlal c f => longMultiplyWord c false true f
  | .smull c f => longMultiplyWord c true false f
  | .smlal c f => longMultiplyWord c true true f
  | .swp raw => raw
  | .swpb raw => raw
  | .undRow4 raw => raw
  | .strh c f => extensionWord c false false true f
  | .ldrh c f => extensionWord c true false true f
  | .ldrsb c f => extensionWord c true true false f
  | .ldrsh c f => extensionWord c true true true f
  | .lseUnnamed c h f => extensionWord c false true h f
  | .mrs c ps rd => mrsWord c ps rd
  | .msrReg c ps fieldMask rm => msrRegWord c ps fieldMask rm
  | .msrImm c ps fieldMask o => msrImmWord c ps fieldMask o
  | .undRow9 raw => raw
  | .andImm c s rn rd o => dataProcessWord c true .and s rn rd o.bits
  | .eorImm c s rn rd o => dataProcessWord c true .eor s rn rd o.bits
  | .subImm c s rn rd o => dataProcessWord c true .sub s rn rd o.bits
  | .rsbImm c s rn rd o => dataProcessWord c true .rsb s rn rd o.bits
  | .addImm c s rn rd o => dataProcessWord c true .add s rn rd o.bits
  | .adcImm c s rn rd o => dataProcessWord c true .adc s rn rd o.bits
  | .sbcImm c s rn rd o => dataProcessWord c true .sbc s rn rd o.bits
  | .rscImm c s rn rd o => dataProcessWord c true .rsc s rn rd o.bits
  | .tstImm c rn rd o => dataProcessWord c true .tst true rn rd o.bits
  | .teqImm c rn rd o => dataProcessWord c true .teq true rn rd o.bits
  | .cmpImm c rn rd o => dataProcessWord c true .cmp true rn rd o.bits
  | .cmnImm c rn rd o => dataProcessWord c true .cmn true rn rd o.bits
  | .orrImm c s rn rd o => dataProcessWord c true .orr s rn rd o.bits
  | .movImm c s rn rd o => dataProcessWord c true .mov s rn rd o.bits
  | .bicImm c s rn rd o => dataProcessWord c true .bic s rn rd o.bits
  | .mvnImm c s rn rd o => dataProcessWord c true .mvn s rn rd o.bits
  | .andShImm c s rn rd o => dataProcessWord c false .and s rn rd o.bits
  | .eorShImm c s rn rd o => dataProcessWord c false .eor s rn rd o.bits
  | .subShImm c s rn rd o => dataProcessWord c false .sub s rn rd o.bits
  | .rsbShImm c s rn rd o => dataProcessWord c false .rsb s rn rd o.bits
  | .addShImm c s rn rd o => dataProcessWord c false .add s rn rd o.bits
  | .adcShImm c s rn rd o => dataProcessWord c false .adc s rn rd o.bits
  | .sbcShImm c s rn rd o => dataProcessWord c false .sbc s rn rd o.bits
  | .rscShImm c s rn rd o => dataProcessWord c false .rsc s rn rd o.bits
  | .tstShImm c rn rd o => dataProcessWord c false .tst true rn rd o.bits
  | .teqShImm c rn rd o => dataProcessWord c false .teq true rn rd o.bits
  | .cmpShImm c rn rd o => dataProcessWord c false .cmp true rn rd o.bits
  | .cmnShImm c rn rd o => dataProcessWord c false .cmn true rn rd o.bits
  | .orrShImm c s rn rd o => dataProcessWord c false .orr s rn rd o.bits
  | .movShImm c s rn rd o => dataProcessWord c false .mov s rn rd o.bits
  | .bicShImm c s rn rd o => dataProcessWord c false .bic s rn rd o.bits
  | .mvnShImm c s rn rd o => dataProcessWord c false .mvn s rn rd o.bits
  | .andShReg c s rn rd o => dataProcessWord c false .and s rn rd o.bits
  | .eorShReg c s rn rd o => dataProcessWord c false .eor s rn rd o.bits
  | .subShReg c s rn rd o => dataProcessWord c false .sub s rn rd o.bits
  | .rsbShReg c s rn rd o => dataProcessWord c false .rsb s rn rd o.bits
  | .addShReg c s rn rd o => dataProcessWord c false .add s rn rd o.bits
  | .adcShReg c s rn rd o => dataProcessWord c false .adc s rn rd o.bits
  | .sbcShReg c s rn rd o => dataProcessWord c false .sbc s rn rd o.bits
  | .rscShReg c s rn rd o => dataProcessWord c false .rsc s rn rd o.bits
  | .tstShReg c rn rd o => dataProcessWord c false .tst true rn rd o.bits
  | .teqShReg c rn rd o => dataProcessWord c false .teq true rn rd o.bits
  | .cmpShReg c rn rd o => dataProcessWord c false .cmp true rn rd o.bits
  | .cmnShReg c rn rd o => dataProcessWord c false .cmn true rn rd o.bits
  | .orrShReg c s rn rd o => dataProcessWord c false .orr s rn rd o.bits
  | .movShReg c s rn rd o => dataProcessWord c false .mov s rn rd o.bits
  | .bicShReg c s rn rd o => dataProcessWord c false .bic s rn rd o.bits
  | .mvnShReg c s rn rd o => dataProcessWord c false .mvn s rn rd o.bits
  | .undRow13 raw => raw
  | .ldrt c u rn rd off => transferWord c false u false true true rn rd off
  | .strt c u rn rd off => transferWord c false u false true false rn rd off
  | .ldrbt c u rn rd off => transferWord c false u true true true rn rd off
  | .strbt c u rn rd off => transferWord c false u true true false rn rd off
  | .ldr c p u w rn rd off => transferWord c p u false w true rn rd off
  | .str c p u w rn rd off => transferWord c p u false w false rn rd off
  | .ldrb c p u w rn rd off => transferWord c p u true w true rn rd off
  | .strb c p u w rn rd off => transferWord c p u true w false rn rd off
  | .ldmia c sb w rn list => blockWord c false true sb w true rn list
  | .ldmib c sb w rn list => blockWord c true true sb w true rn list
  | .ldmda c sb w rn list => blockWord c false false sb w true rn list
  | .ldmdb c sb w rn list => blockWord c true false sb w true rn list
  | .stmia c sb w rn list => blockWord c false true sb w false rn list
  | .stmib c sb w rn list => blockWord c true true sb w false rn list
  | .stmda c sb w rn list => blockWord c false false sb w false rn list
  | .stmdb c sb w rn list => blockWord c true false sb w false rn list
  | .b c offset24 => branchWord c false offset24
  | .bl c offset24 => branchWord c true offset24
  | .ldc c f => coTransferWord c true f
  | .stc c f => coTransferWord c false f
  | .cdp c opc1 crn crd cpNum opc2 crm => coOperationWord c opc1 crn crd cpNum opc2 crm
  | .mcr c f => coRegisterWord c false f
  | .mrc c f => coRegisterWord c true f
  | .swi c comment24 => swiWord c comment24
  | .undLast raw => raw

/-! ## What every instruction has -/

/-- The condition of a decoded instruction (R83): its own field, or bits 31:28 of a raw word. -/
def Instr.cond : Instr → Cond
  | .swp raw | .swpb raw | .undRow4 raw | .undRow9 raw | .undRow13 raw | .undLast raw => raw.condField
  | .bx c .. | .mul c .. | .mla c .. | .umull c .. | .umlal c .. | .smull c .. | .smlal c .. => c
  | .strh c .. | .ldrh c .. | .ldrsb c .. | .ldrsh c .. | .lseUnnamed c .. => c
  | .mrs c .. | .msrReg c .. | .msrImm c .. => c
  | .andImm c .. | .eorImm c .. | .subImm c .. | .rsbImm c .. => c
  | .addImm c .. | .adcImm c .. | .sbcImm c .. | .rscImm c .. => c
  | .tstImm c .. | .teqImm c .. | .cmpImm c .. | .cmnImm c .. => c
  | .orrImm c .. | .movImm c .. | .bicImm c .. | .mvnImm c .. => c
  | .andShImm c .. | .eorShImm c .. | .subShImm c .. | .rsbShImm c .. => c
  | .addShImm c .. | .adcShImm c .. | .sbcShImm c .. | .rscShImm c .. => c
  | .tstShImm c .. | .teqShImm c .. | .cmpShImm c .. | .cmnShImm c .. => c
  | .orrShImm c .. | .movShImm c .. | .bicShImm c .. | .mvnShImm c .. => c
  | .andShReg c .. | .eorShReg c .. | .subShReg c .. | .rsbShReg c .. => c
  | .addShReg c .. | .adcShReg c .. | .sbcShReg c .. | .rscShReg c .. => c
  | .tstShReg c .. | .teqShReg c .. | .cmpShReg c .. | .cmnShReg c .. => c
  | .orrShReg c .. | .movShReg c .. | .bicShReg c .. | .mvnShReg c .. => c
  | .ldrt c .. | .strt c .. | .ldrbt c .. | .strbt c .. => c
  | .ldr c .. | .str c .. | .ldrb c .. | .strb c .. => c
  | .ldmia c .. | .ldmib c .. | .ldmda c .. | .ldmdb c .. => c
  | .stmia c .. | .stmib c .. | .stmda c .. | .stmdb c .. => c
  | .b c .. | .bl c .. | .ldc c .. | .stc c .. | .cdp c .. | .mcr c .. | .mrc c .. | .swi c .. => c

/-- The class of a decoded instruction (R82, R84). -/
def Instr.cls : Instr → InstrClass
  | .bx .. => .branchExchange
  | .mul .. | .mla .. | .umull .. | .umlal .. | .smull .. | .smlal .. => .multiply
  | .swp .. | .swpb .. | .undRow4 .. | .undRow9 .. | .undRow13 .. | .undLast .. => .undefined
  | .strh .. | .ldrh .. | .ldrsb .. | .ldrsh .. | .lseUnnamed .. => .loadStoreExtension
  | .mrs .. | .msrReg .. => .controlRegister
  | .msrImm .. => .controlImmediate
  | .andImm .. | .eorImm .. | .subImm .. | .rsbImm .. => .dataProcess
  | .addImm .. | .adcImm .. | .sbcImm .. | .rscImm .. => .dataProcess
  | .tstImm .. | .teqImm .. | .cmpImm .. | .cmnImm .. => .dataProcess
  | .orrImm .. | .movImm .. | .bicImm .. | .mvnImm .. => .dataProcess
  | .andShImm .. | .eorShImm .. | .subShImm .. | .rsbShImm .. => .dataProcess
  | .addShImm .. | .adcShImm .. | .sbcShImm .. | .rscShImm .. => .dataProcess
  | .tstShImm .. | .teqShImm .. | .cmpShImm .. | .cmnShImm .. => .dataProcess
  | .orrShImm .. | .movShImm .. | .bicShImm .. | .mvnShImm .. => .dataProcess
  | .andShReg .. | .eorShReg .. | .subShReg .. | .rsbShReg .. => .dataProcess
  | .addShReg .. | .adcShReg .. | .sbcShReg .. | .rscShReg .. => .dataProcess
  | .tstShReg .. | .teqShReg .. | .cmpShReg .. | .cmnShReg .. => .dataProcess
  | .orrShReg .. | .movShReg .. | .bicShReg .. | .mvnShReg .. => .dataProcess
  | .ldrt .. | .strt .. | .ldrbt .. | .strbt .. => .singleDataTransfer
  | .ldr .. | .str .. | .ldrb .. | .strb .. => .singleDataTransfer
  | .ldmia .. | .ldmib .. | .ldmda .. | .ldmdb .. => .blockDataTransfer
  | .stmia .. | .stmib .. | .stmda .. | .stmdb .. => .blockDataTransfer
  | .b .. | .bl .. => .branch
  | .ldc .. | .stc .. => .coProcessorDataTransfer
  | .cdp .. => .coProcessorDataOperation
  | .mcr .. | .mrc .. => .coProcessorRegisterTransfer
  | .swi .. => .softwareInterrupt

end Sys2Proof
end

