-- ==== Sys2Proof/Config.lean ====
section
/-! DEFINITION. What the spec leaves open and nothing may rely on (00_scope.md R6). -/

namespace Sys2Proof

/-- The free words the model draws, one for each value of the counter `State.draws`: the value
`RESET_LR` (70_reset_and_hazards.md R301) and the word of a faulted read under
`BUS_FAULT_POLICY = ignore` (20_memory.md R67). It has no body, so no proof can know a value of it
(log 6). -/
opaque Config.freeWord : Nat → Word

/-- A request on the bus port: (address, Read) or (address, Write, data) (20_memory.md R61). -/
inductive PortRequest
  | read (addr : Word)
  | write (addr data : Word)
  deriving DecidableEq, Repr

/-- What a device behind the port answers to a read: Ok with a word, or Fault. It may depend on every
request a device has had before, newest first, and on the plain memory beside it. No body: the far side
of the port is the platform's (00_scope.md R6, 20_memory.md R70; log 20). -/
opaque Config.deviceRead : List PortRequest → List (Nat × Byte) → Word → Option Word

/-- Whether a device answers Ok to a write (log 20). -/
opaque Config.deviceAccepts : List PortRequest → List (Nat × Byte) → Word → Word → Bool

/-- The bytes of plain memory that a device changes upon a read, or upon a write it answers with Ok, the first of
the list being that request (00_scope.md R6 "side effects", 20_memory.md R70; log 20). -/
opaque Config.deviceStores : List PortRequest → List (Nat × Byte) → List (Word × Byte)

end Sys2Proof
end

