-- ==== Sys2Proof/Machine/State.lean ====
section
/-! DEFINITION. The state of the machine as plain data (10_state.md R20 to R33), the bus it is bound to
(00_scope.md R6), and the state after New (10_state.md R34). -/

namespace Sys2Proof.Machine

/-- The seven processor modes (10_state.md R21). -/
inductive Mode
  | usr | fiq | irq | svc | abt | und | sys
  deriving DecidableEq, Repr

/-- The 31 physical general registers (10_state.md R22): the unbanked array `R[0..15]`, whose last word
is the program counter; `R_fiq[8..14]`; and `R_m[13..14]` for irq, svc, abt, und. -/
structure RegFile where
  r   : Vector Word 16
  fiq : Vector Word 7
  irq : Vector Word 2
  svc : Vector Word 2
  abt : Vector Word 2
  und : Vector Word 2
  deriving DecidableEq, Repr

/-- The name of one physical register: `r i` is `R[i]`, `fiq i` is `R_fiq[8 + i]`, and `irq i`, `svc i`,
`abt i`, `und i` are that mode's register `13 + i` (10_state.md R22). -/
inductive PhysReg
  | r   (i : Fin 16)
  | fiq (i : Fin 7)
  | irq (i : Fin 2)
  | svc (i : Fin 2)
  | abt (i : Fin 2)
  | und (i : Fin 2)
  deriving DecidableEq, Repr

/-- The CPSR, field by field; its mode field is the active processor mode (10_state.md R29). -/
structure Cpsr where
  n    : Bool
  z    : Bool
  c    : Bool
  v    : Bool
  q    : Bool
  res  : BitVec 19
  i    : Bool
  f    : Bool
  t    : Bool
  mode : Mode
  deriving DecidableEq, Repr

/-- The five SPSR words, one for each mode that has a slot (10_state.md R32). -/
structure SpsrFile where
  fiq : Word
  irq : Word
  svc : Word
  abt : Word
  und : Word
  deriving DecidableEq, Repr

/-- The slot `fetched` (10_state.md R33). -/
inductive FetchSlot
  | none
  | word (w : Word)
  | fetchFault (addr : Word)
  deriving DecidableEq, Repr

/-- The slot `decoded` (10_state.md R33). -/
inductive DecodeSlot
  | none
  | instr (i : Instr)
  | fetchFault (addr : Word)
  deriving DecidableEq, Repr

/-- What kind of bus access faulted (60_exceptions.md R280). -/
inductive AccessKind
  | fetch | read | write
  deriving DecidableEq, Repr

/-- The reason recorded in `halted` (60_exceptions.md R280). -/
inductive HaltReason
  /-- the class, or the byte or user-bank form, has no execution semantics (R281) -/
  | unimplementedInstruction (word : Word)
  /-- a register combination the block gives no meaning to (R282) -/
  | unpredictableEncoding (word : Word)
  /-- the bus answered Fault (R283, R284) -/
  | busFault (addr : Word) (kind : AccessKind)
  deriving DecidableEq, Repr

/-- The parameter `BUS_FAULT_POLICY` (00_scope.md R6, 20_memory.md R67; log 5). -/
inductive BusFaultPolicy
  | halt | ignore
  deriving DecidableEq, Repr

/-- What stands behind a range of addresses (00_scope.md R6; log 1, 16, 20). -/
inductive WindowKind
  /-- memory that is read and written -/
  | ram
  /-- memory that is read; a write is answered Fault -/
  | rom
  /-- memory that is read; a write is answered Ok and dropped -/
  | sink
  /-- a device: every answer is its own, and an access, a read too, may change what stands behind the port -/
  | device
  deriving DecidableEq, Repr

/-- One range of byte addresses the bus answers; outside every range it answers Fault (log 1). Ranges may overlap: a
device comes first, then ram, sink, rom (log 16, 20). -/
structure Window where
  base : Nat
  size : Nat
  kind : WindowKind
  deriving DecidableEq, Repr

/-- What the bus does with an address that is not a multiple of 4: answer Fault, leave bits 1 and 0
out, or take the four bytes that begin there (20_memory.md R65, R69: it is the bus's affair; log 3). -/
inductive Misaligned
  | fault | ignoreLowBits | byteWise
  deriving DecidableEq, Repr

/-- The byte order behind the port, which no rule of the core reads (20_memory.md R68; log 4). -/
inductive ByteOrder
  | little | big
  deriving DecidableEq, Repr

/-- The contents behind the port: (address, byte) pairs in the canonical form `Memory.wf`. -/
abbrev Memory := List Host.Cell

/-- The parameter `Bus` (00_scope.md R6) as plain data: contents, mapping, treatment of misaligned
addresses, byte order, and the requests its devices have had, newest first, on which their answers
depend (log 1, 20). -/
structure Bus where
  mem        : Memory
  windows    : List Window
  misaligned : Misaligned
  order      : ByteOrder
  requests   : List PortRequest
  deriving DecidableEq, Repr

/-- One access on the port with its answer (20_memory.md R61, R79). A fetch is a read: the port has no
fetch qualifier (R64). -/
inductive BusEvent
  /-- a read of `addr`, answered Ok with a word or Fault -/
  | read (addr : Word) (answer : Option Word)
  /-- a write of `data` to `addr`, answered Ok (true) or Fault (false) -/
  | write (addr data : Word) (ok : Bool)
  deriving DecidableEq, Repr

end Sys2Proof.Machine

namespace Sys2Proof.Machine

/-- The state of the core (10_state.md R20: registers, CPSR, SPSRs, the two slots, the halt record),
with the step-local flag `branched` (log 8), the parameters `Bus` and `BUS_FAULT_POLICY` it is bound to
(log 1, 5), and two fields of the model's own: the trace of bus accesses, newest first (20_memory.md
R79; log 9), and the counter of free values drawn (log 6). -/
structure State where
  regs     : RegFile
  cpsr     : Cpsr
  spsr     : SpsrFile
  fetched  : FetchSlot
  decoded  : DecodeSlot
  halted   : Option HaltReason
  branched : Bool
  bus      : Bus
  policy   : BusFaultPolicy
  busLog   : List BusEvent
  draws    : Nat
  deriving DecidableEq, Repr

/-- A step of this machine never ends in a fault: a fatal condition is a state of the core, the halt
record (60_exceptions.md R280, R288), so it is a next state (log 10). No constructor, raised by nobody;
neither safe nor unsafe. -/
inductive Fault
  deriving DecidableEq, Repr

/-- Why a step is refused. -/
inductive Refusal
  /-- The instruction of that name has no meaning yet; raised only by an arm of `exec`, and by none now.
  Safe: nothing can be proved about what follows. -/
  | notModelled (mnemonic : String)
  deriving DecidableEq, Repr

/-- What one instruction or one step answers. -/
abbrev Result := Host.Outcome State Fault Refusal

/-- Every register file word 0 (10_state.md R34, R42). -/
def RegFile.zero : RegFile where
  r   := Vector.replicate 16 0
  fiq := Vector.replicate 7 0
  irq := Vector.replicate 2 0
  svc := Vector.replicate 2 0
  abt := Vector.replicate 2 0
  und := Vector.replicate 2 0

/-- Every CPSR field 0 but the mode, which is Supervisor: the word 0x00000013 (10_state.md R34). -/
def Cpsr.afterNew : Cpsr where
  n := false
  z := false
  c := false
  v := false
  q := false
  res := 0
  i := false
  f := false
  t := false
  mode := .svc

/-- Every SPSR slot 0 (10_state.md R34). -/
def SpsrFile.zero : SpsrFile where
  fiq := 0
  irq := 0
  svc := 0
  abt := 0
  und := 0

/-- The bus of the reset state: nothing written yet, one window of memory over the whole address space,
misaligned addresses faulted as the test bus TB does (20_memory.md R66), little-endian (R68). The spec
gives no bus: log 2, 3, 4. -/
def Bus.afterReset : Bus where
  mem        := []
  windows    := [⟨0, 2 ^ 32, .ram⟩]
  misaligned := .fault
  order      := .little
  requests   := []

/-- New(bus): Supervisor mode, every register, flag and SPSR 0, the pipeline Empty, not halted
(10_state.md R34), bound to the given bus and policy. -/
def State.new (bus : Bus) (policy : BusFaultPolicy) : State where
  regs     := .zero
  cpsr     := .afterNew
  spsr     := .zero
  fetched  := .none
  decoded  := .none
  halted   := none
  branched := false
  bus      := bus
  policy   := policy
  busLog   := []
  draws    := 0

/-- The machine right after New (10_state.md R34, R42), on the bus of log 2 to 4 with the policy `halt`
(20_memory.md R67). -/
def State.reset : State := .new .afterReset .halt

end Sys2Proof.Machine
end

