-- ==== Sys2Proof/Machine/Ops.lean ====
section
/-! DEFINITION. The named operations over registers, status, memory and the bus port, and the two
operations that stand in this block for taking an exception and returning from one: the halt
(60_exceptions.md R288) and RestoreFlags (10_state.md R41). -/

namespace Sys2Proof.Machine

/-! ## Modes and status words -/

/-- The 5-bit tag of a mode (10_state.md R21, its decision D19; log 13). -/
def Mode.tag : Mode → BitVec 5
  | .usr => 0b10000
  | .fiq => 0b10001
  | .irq => 0b10010
  | .svc => 0b10011
  | .abt => 0b10111
  | .und => 0b11011
  | .sys => 0b11111

/-- The CPSR as a word (10_state.md R30). -/
def Cpsr.word (p : Cpsr) : Word :=
  BitVec.ofBool p.n ++ BitVec.ofBool p.z ++ BitVec.ofBool p.c ++ BitVec.ofBool p.v ++ BitVec.ofBool p.q
    ++ p.res ++ BitVec.ofBool p.i ++ BitVec.ofBool p.f ++ BitVec.ofBool p.t ++ p.mode.tag

/-- `SPSR[m]`, in the five modes that have a slot (10_state.md R32). -/
def SpsrFile.slot (f : SpsrFile) : Mode → Option Word
  | .usr => none
  | .fiq => some f.fiq
  | .irq => some f.irq
  | .svc => some f.svc
  | .abt => some f.abt
  | .und => some f.und
  | .sys => none

/-- `SPSR[m] <- w`; User and System have no slot, and nothing is written (10_state.md R32, R37). -/
def SpsrFile.setSlot (f : SpsrFile) (m : Mode) (w : Word) : SpsrFile :=
  match m with
  | .usr => f
  | .fiq => { f with fiq := w }
  | .irq => { f with irq := w }
  | .svc => { f with svc := w }
  | .abt => { f with abt := w }
  | .und => { f with und := w }
  | .sys => f

/-- The fields RestoreFlags copies from a saved status word: N, Z, C, V, Q, I, F, T. The mode and RES
stay (10_state.md R41). -/
def Cpsr.restore (p : Cpsr) (w : Word) : Cpsr :=
  { p with
    n := w.getLsbD 31
    z := w.getLsbD 30
    c := w.getLsbD 29
    v := w.getLsbD 28
    q := w.getLsbD 27
    i := w.getLsbD 7
    f := w.getLsbD 6
    t := w.getLsbD 5 }

/-- RestoreFlags from the active mode's slot; where there is none nothing is restored, and the one
caller has halted before (10_state.md R41, 42_data_processing.md R177). -/
def State.restoreFlags (s : State) : State :=
  match s.spsr.slot s.cpsr.mode with
  | some w => { s with cpsr := s.cpsr.restore w }
  | none => s

/-! ## The register file -/

/-- The banking map: the physical register behind logical index `i` in mode `m` (10_state.md R23). -/
def phys (m : Mode) (i : Reg) : PhysReg :=
  match m with
  | .usr | .sys => .r i.toFin
  | .fiq => if h : 8 ≤ i.toNat ∧ i.toNat ≤ 14 then .fiq ⟨i.toNat - 8, by omega⟩ else .r i.toFin
  | .irq => if h : 13 ≤ i.toNat ∧ i.toNat ≤ 14 then .irq ⟨i.toNat - 13, by omega⟩ else .r i.toFin
  | .svc => if h : 13 ≤ i.toNat ∧ i.toNat ≤ 14 then .svc ⟨i.toNat - 13, by omega⟩ else .r i.toFin
  | .abt => if h : 13 ≤ i.toNat ∧ i.toNat ≤ 14 then .abt ⟨i.toNat - 13, by omega⟩ else .r i.toFin
  | .und => if h : 13 ≤ i.toNat ∧ i.toNat ≤ 14 then .und ⟨i.toNat - 13, by omega⟩ else .r i.toFin

/-- The content of a physical register. -/
def RegFile.get (f : RegFile) : PhysReg → Word
  | .r i => f.r[i]
  | .fiq i => f.fiq[i]
  | .irq i => f.irq[i]
  | .svc i => f.svc[i]
  | .abt i => f.abt[i]
  | .und i => f.und[i]

/-- The register file with one physical register changed. -/
def RegFile.set (f : RegFile) (p : PhysReg) (v : Word) : RegFile :=
  match p with
  | .r i => { f with r := f.r.set i v }
  | .fiq i => { f with fiq := f.fiq.set i v }
  | .irq i => { f with irq := f.irq.set i v }
  | .svc i => { f with svc := f.svc.set i v }
  | .abt i => { f with abt := f.abt.set i v }
  | .und i => { f with und := f.und.set i v }

/-- Register read: `x[i]` through the active mode, without a side effect (10_state.md R24). -/
def State.getReg (s : State) (i : Reg) : Word := s.regs.get (phys s.cpsr.mode i)

/-- The register write of the host and of the pipeline controller: one physical register changes, and
nothing else (10_state.md R25, R38). -/
def State.setReg (s : State) (i : Reg) (v : Word) : State :=
  { s with regs := s.regs.set (phys s.cpsr.mode i) v }

/-- The register write of an executing instruction: a write of r15 also sets `branched`
(10_state.md R25, 40_step_pipeline_condition.md R134). -/
def State.writeReg (s : State) (i : Reg) (v : Word) : State :=
  if i = 15 then { s.setReg i v with branched := true } else s.setReg i v

/-- The program counter, `R[15]`, never banked (10_state.md R28). -/
def State.pc (s : State) : Word := s.regs.get (.r 15)

/-- The program counter set by the pipeline controller, without `branched`
(40_step_pipeline_condition.md R130). -/
def State.setPc (s : State) (v : Word) : State := { s with regs := s.regs.set (.r 15) v }

/-! ## The halt -/

/-- `raise Halt(reason)`: the reason is recorded and nothing else changes (00_scope.md R15,
60_exceptions.md R288). -/
def State.halt (s : State) (reason : HaltReason) : State := { s with halted := some reason }

/-! ## The bytes behind the port -/

/-- What a byte that nothing has written reads as (log 2, DESIGN CHOICE, unsafe). -/
def unlistedByte : Byte := 0

/-- The byte at an address. -/
def Memory.readByte : Memory → Nat → Byte
  | [], _ => unlistedByte
  | (b, v) :: m, a => if a = b then v else Memory.readByte m a

/-- The memory with a byte placed among its entries, in rising order of address. -/
def Memory.insertByte : Memory → Nat → Byte → Memory
  | [], a, v => [(a, v)]
  | (b, w) :: m, a, v =>
    if a < b then (a, v) :: (b, w) :: m
    else if a = b then (a, v) :: m
    else (b, w) :: Memory.insertByte m a v

/-- The memory with no entry at an address. -/
def Memory.eraseByte (m : Memory) (a : Nat) : Memory := m.filter fun c => c.1 != a

/-- The memory with a byte stored; the value an unlisted address reads as is not listed. -/
def Memory.writeByte (m : Memory) (a : Nat) (v : Byte) : Memory :=
  if v = unlistedByte then m.eraseByte a else m.insertByte a v

/-- Addresses rise strictly from at least `lo`, lie below 2^32, and no entry holds the unlisted byte. -/
def Memory.wfFrom (lo : Nat) : Memory → Bool
  | [] => true
  | (a, v) :: m => decide (lo ≤ a) && decide (a < 2 ^ 32) && v != unlistedByte && Memory.wfFrom (a + 1) m

/-- The canonical form of memory. -/
def Memory.wf (m : Memory) : Bool := Memory.wfFrom 0 m

/-- The address of byte `k` of the word at `t`, modulo 2^32 (log 15). -/
def byteAddress (t : Word) (k : Nat) : Nat := (t + BitVec.ofNat 32 k).toNat

/-- Byte `k` of a word, counted by rising address (20_memory.md R68). -/
def ByteOrder.byteOf (o : ByteOrder) (v : Word) (k : Nat) : Byte :=
  match o with
  | .little => v.extractLsb' (8 * k) 8
  | .big => v.extractLsb' (8 * (3 - k)) 8

/-- The word made of four bytes at rising addresses (20_memory.md R68). -/
def ByteOrder.wordOf (o : ByteOrder) (b0 b1 b2 b3 : Byte) : Word :=
  match o with
  | .little => b3 ++ b2 ++ b1 ++ b0
  | .big => b0 ++ b1 ++ b2 ++ b3

/-- The word whose bytes stand from `t` up. -/
def Memory.readWord (m : Memory) (o : ByteOrder) (t : Word) : Word :=
  o.wordOf (m.readByte (byteAddress t 0)) (m.readByte (byteAddress t 1))
    (m.readByte (byteAddress t 2)) (m.readByte (byteAddress t 3))

/-- The memory with the bytes of a word stored from `t` up. -/
def Memory.writeWord (m : Memory) (o : ByteOrder) (t v : Word) : Memory :=
  (((m.writeByte (byteAddress t 0) (o.byteOf v 0)).writeByte (byteAddress t 1) (o.byteOf v 1)).writeByte
    (byteAddress t 2) (o.byteOf v 2)).writeByte (byteAddress t 3) (o.byteOf v 3)

/-! ## The bus -/

/-- The window holds the byte address `n`. -/
def Window.holds (w : Window) (n : Nat) : Bool := decide (w.base ≤ n) && decide (n < w.base + w.size)

/-- A window of a kind that satisfies `p` holds the byte address. Where several windows hold it one of them is
enough, so the most permissive kind decides (DESIGN CHOICE: log 16). -/
def Bus.within (b : Bus) (p : WindowKind → Bool) (n : Nat) : Bool := b.windows.any fun w => p w.kind && w.holds n

/-- Plain memory, of any kind, holds the byte address. -/
def Bus.mapped (b : Bus) (n : Nat) : Bool := b.within (fun k => k != .device) n

/-- Plain memory that answers Ok to a write holds the byte address, whatever else holds it too (DESIGN CHOICE:
log 16). -/
def Bus.acceptsByte (b : Bus) (n : Nat) : Bool := b.within (fun k => k == .ram || k == .sink) n

/-- Plain memory that persists a write holds the byte address, whatever other plain memory holds it too (DESIGN
CHOICE: log 16). -/
def Bus.keepsByte (b : Bus) (n : Nat) : Bool := b.within (fun k => k == .ram) n

/-- The address, as presented, belongs to a device (20_memory.md R65, R70; log 20). -/
def Bus.device (b : Bus) (a : Word) : Bool := b.within (fun k => k == .device) a.toNat

/-- The address of the word the bus takes an address to mean; none where it answers Fault (20_memory.md
R65, R69; log 3). -/
def Bus.target (b : Bus) (a : Word) : Option Word :=
  if a.extractLsb' 0 2 = 0 then some a
  else match b.misaligned with
    | .fault => none
    | .ignoreLowBits => some (a &&& 0xFFFFFFFC)
    | .byteWise => some a

/-- All four bytes of the word at `t` satisfy `p`. -/
def wordIn (p : Nat → Bool) (t : Word) : Bool :=
  p (byteAddress t 0) && p (byteAddress t 1) && p (byteAddress t 2) && p (byteAddress t 3)

/-- A device has had a request, on which its later answers may depend (log 20). -/
def Bus.recorded (b : Bus) (r : PortRequest) : Bus := { b with requests := r :: b.requests }

/-- A device has had a request and acts upon it: the request is recorded, and the device's own stores are made
(20_memory.md R70; log 20). -/
def Bus.asked (b : Bus) (r : PortRequest) : Bus :=
  { b.recorded r with
    mem := (Config.deviceStores (r :: b.requests) b.mem).foldl (fun m c => m.writeByte c.1.toNat c.2) b.mem }

/-- The bus's answer to a read: Ok with a word, or Fault (20_memory.md R61, R66). -/
def Bus.read (b : Bus) (a : Word) : Option Word :=
  if b.device a then Config.deviceRead b.requests b.mem a
  else match b.target a with
    | some t => if wordIn b.mapped t then some (b.mem.readWord b.order t) else none
    | none => none

/-- The bus after a read: only a read from a device changes it (00_scope.md R6, 20_memory.md R70). A read that the
device answers with Fault changes it in the same way (DESIGN CHOICE: log 20). -/
def Bus.afterRead (b : Bus) (a : Word) : Bus := if b.device a then b.asked (.read a) else b

/-- The bus answers Ok to a write (20_memory.md R61). -/
def Bus.accepts (b : Bus) (a v : Word) : Bool :=
  if b.device a then Config.deviceAccepts b.requests b.mem a v
  else match b.target a with
    | some t => wordIn b.acceptsByte t
    | none => false

/-- The word of plain memory in which a write to `a` is persisted; none where the write is dropped or
answered Fault, or goes to a device (log 16, 19). -/
def Bus.storesAt (b : Bus) (a : Word) : Option Word :=
  if b.device a then none
  else match b.target a with
    | some t => if wordIn b.keepsByte t then some t else none
    | none => none

/-- The bus after a write (20_memory.md R61, R66). A write answered with Fault changes no byte of memory (R67,
44_single_data_transfer.md R227); that a device which refused it still has had the request is DESIGN CHOICE (log 20). -/
def Bus.afterWrite (b : Bus) (a v : Word) : Bus :=
  if b.device a then if b.accepts a v then b.asked (.write a v) else b.recorded (.write a v)
  else match b.storesAt a with
    | some t => { b with mem := b.mem.writeWord b.order t v }
    | none => b

/-! ## The port (20_memory.md R62 to R67) -/

/-- What a data access leaves the executing instruction with: it goes on with a value, or the core has
halted. -/
inductive Access (α : Type)
  | done (a : α) (s : State)
  | halted (s : State)

/-- The state an instruction ends in: what follows the access, or the halted state as it stands. -/
def Access.andThen {α : Type} (x : Access α) (k : α → State → State) : State :=
  match x with
  | .done a s => k a s
  | .halted s => s

/-- A bus access recorded in the trace (20_memory.md R79). -/
def State.logEvent (s : State) (e : BusEvent) : State := { s with busLog := e :: s.busLog }

/-- The next free word (log 6). -/
def State.freeWord (s : State) : Word := Config.freeWord s.draws

/-- The counter past the free word just drawn (log 6). -/
def State.drawn (s : State) : State := { s with draws := s.draws + 1 }

/-- A read on the port: the bus moves on, and the access is recorded with its answer (20_memory.md R61,
R79). -/
def State.portRead (s : State) (a : Word) : State :=
  { s with bus := s.bus.afterRead a }.logEvent (.read a (s.bus.read a))

/-- A write on the port, in the same way. -/
def State.portWrite (s : State) (a v : Word) : State :=
  { s with bus := s.bus.afterWrite a v }.logEvent (.write a v (s.bus.accepts a v))

/-- `MemRead(addr, 4)`: one read, at the address as computed. On Fault the core halts under
`BUS_FAULT_POLICY = halt`; under `ignore` it goes on with a word the spec does not fix (20_memory.md R62,
R67; log 5). -/
def State.memRead (s : State) (a : Word) : Access Word :=
  match s.bus.read a with
  | some w => .done w (s.portRead a)
  | none =>
    match s.policy with
    | .halt => .halted ((s.portRead a).halt (.busFault a .read))
    | .ignore => .done s.freeWord (s.portRead a).drawn

/-- `MemWrite(addr, 4, v)`: one write, at the address as computed. On Fault the core halts under
`BUS_FAULT_POLICY = halt`; under `ignore` the write is dropped (20_memory.md R63, R67; log 5). -/
def State.memWrite (s : State) (a v : Word) : Access Unit :=
  if s.bus.accepts a v then .done () (s.portWrite a v)
  else match s.policy with
    | .halt => .halted ((s.portWrite a v).halt (.busFault a .write))
    | .ignore => .done () (s.portWrite a v)

/-- `Fetch(addr)`: one read; a Fault is recorded in the slot and raises nothing yet (20_memory.md R64,
40_step_pipeline_condition.md R133). -/
def State.fetch (s : State) (a : Word) : State :=
  { s.portRead a with
    fetched := match s.bus.read a with
      | some w => .word w
      | none => .fetchFault a }

end Sys2Proof.Machine
end

