-- ==== Sys2Proof/Machine/Operands.lean ====
section
/-! DEFINITION. The shifter/operand unit (41_shifter_operand.md) and the addresses of the transfers
(44_single_data_transfer.md R212, R213; 45_block_data_transfer.md R231, R232). -/

namespace Sys2Proof.Machine

/-! ## The shifter -/

/-- What the shifter yields: "(value, carry-out)" (41_shifter_operand.md R150). -/
structure ShifterOut where
  value : Word
  carry : Bool
  deriving DecidableEq, Repr

/-- ImmediateOperand: the 8-bit immediate rotated right by twice the rotate field (R152). -/
def immediateOperand (o : ImmOperand) (carryIn : Bool) : ShifterOut :=
  let v := (o.imm8.setWidth 32).rotateRight (2 * o.rotate.toNat)
  ⟨v, if o.rotate = 0 then carryIn else v.getLsbD 31⟩

/-- A shift by `n` from 1 to 31, the same for both amount layouts (R155 to R158, R162). -/
def shiftBy (v : Word) (type : ShiftType) (n : Nat) : ShifterOut :=
  match type with
  | .lsl => ⟨v <<< n, v.getLsbD (32 - n)⟩
  | .lsr => ⟨v >>> n, v.getLsbD (n - 1)⟩
  | .asr => ⟨v.sshiftRight n, v.getLsbD (n - 1)⟩
  | .ror => ⟨v.rotateRight n, v.getLsbD (n - 1)⟩

/-- 32 copies of bit 31 (R157, R163). -/
def signFill (v : Word) : Word := if v.getLsbD 31 then 0xFFFFFFFF else 0

/-- ShiftByImmediate: an amount of 0 is special for every type (R153 to R160). -/
def shiftByImmediate (v : Word) (type : ShiftType) (n : BitVec 5) (carryIn : Bool) : ShifterOut :=
  if n = 0 then
    match type with
    | .lsl => ⟨v, carryIn⟩
    | .lsr => ⟨0, v.getLsbD 31⟩
    | .asr => ⟨signFill v, v.getLsbD 31⟩
    | .ror => ⟨(BitVec.ofBool carryIn).setWidth 32 <<< 31 ||| v >>> 1, v.getLsbD 0⟩
  else shiftBy v type n.toNat

/-- ShiftByRegister: the amount is a byte; 0 changes nothing, 1 to 31 is as for the immediate, 32 and
more saturate, and a rotate takes the amount modulo 32 (R161 to R166). -/
def shiftByRegister (v : Word) (type : ShiftType) (n : BitVec 8) (carryIn : Bool) : ShifterOut :=
  if n = 0 then ⟨v, carryIn⟩
  else if n.toNat < 32 then shiftBy v type n.toNat
  else match type with
    | .lsl => if n = 32 then ⟨0, v.getLsbD 0⟩ else ⟨0, false⟩
    | .lsr => if n = 32 then ⟨0, v.getLsbD 31⟩ else ⟨0, false⟩
    | .asr => ⟨signFill v, v.getLsbD 31⟩
    | .ror => if n.toNat % 32 = 0 then ⟨v, v.getLsbD 31⟩ else shiftBy v .ror (n.toNat % 32)

/-- Operand2 in its three layouts, with the registers and the carry as the instruction finds them (R151,
R167). -/
def operand2 (o : Operand2) (s : State) : ShifterOut :=
  match o with
  | .imm o => immediateOperand o s.cpsr.c
  | .shiftImm o => shiftByImmediate (s.getReg o.rm) o.type o.shiftImm s.cpsr.c
  | .shiftReg o => shiftByRegister (s.getReg o.rm) o.type ((s.getReg o.rs).extractLsb' 0 8) s.cpsr.c

/-! ## Single data transfer -/

/-- The fields of a single data transfer (30_encoding.md R100). -/
structure SingleTransfer where
  p : Bool
  u : Bool
  b : Bool
  w : Bool
  l : Bool
  rn : Reg
  rd : Reg
  off : TransferOffset
  deriving DecidableEq, Repr

/-- The offset: the zero-extended 12-bit immediate, or a shifted register whose carry-out is discarded
(44_single_data_transfer.md R212, 41_shifter_operand.md R168). -/
def transferOffset (o : TransferOffset) (s : State) : Word :=
  match o with
  | .imm imm12 => imm12.setWidth 32
  | .reg o => (shiftByImmediate (s.getReg o.rm) o.type o.shiftImm s.cpsr.c).value

/-- Write-back happens iff P = 0 or W = 1 (44_single_data_transfer.md R214). -/
def SingleTransfer.writesBack (t : SingleTransfer) : Bool := !t.p || t.w

/-- The computed address, base plus or minus offset modulo 2^32 (44_single_data_transfer.md R210). -/
def SingleTransfer.computed (t : SingleTransfer) (s : State) : Word :=
  if t.u then s.getReg t.rn + transferOffset t.off s else s.getReg t.rn - transferOffset t.off s

/-- The address of the access: computed when pre-indexed, the base when post-indexed
(44_single_data_transfer.md R213). -/
def SingleTransfer.address (t : SingleTransfer) (s : State) : Word :=
  if t.p then t.computed s else s.getReg t.rn

/-- The register combinations to which the block gives no meaning (44_single_data_transfer.md R216). -/
def SingleTransfer.unpredictable (t : SingleTransfer) : Bool :=
  t.writesBack && (t.rn == t.rd || t.rn == 15)

/-! ## Block data transfer -/

/-- The fields of a block data transfer (30_encoding.md R101). -/
structure BlockTransfer where
  p : Bool
  u : Bool
  sb : Bool
  w : Bool
  l : Bool
  rn : Reg
  list : BitVec 16
  deriving DecidableEq, Repr

/-- The sixteen logical registers in ascending order. -/
def allRegs : List Reg := [0, 1, 2, 3, 4, 5, 6, 7, 8, 9, 10, 11, 12, 13, 14, 15]

/-- The registers a list selects, in ascending order (45_block_data_transfer.md R231). -/
def BlockTransfer.registers (t : BlockTransfer) : List Reg := allRegs.filter fun i => t.list.getLsbD i.toNat

/-- `4 * popcount(list)`, the size of the block in bytes (45_block_data_transfer.md R232). -/
def BlockTransfer.size (t : BlockTransfer) : Word := BitVec.ofNat 32 (4 * t.registers.length)

/-- The start address, the lowest of the block (45_block_data_transfer.md R232). -/
def BlockTransfer.start (t : BlockTransfer) (s : State) : Word :=
  let base := s.getReg t.rn
  match t.u, t.p with
  | true, false => base
  | true, true => base + 4
  | false, false => base - t.size + 4
  | false, true => base - t.size

/-- The value written back to the base (45_block_data_transfer.md R234). -/
def BlockTransfer.newBase (t : BlockTransfer) (s : State) : Word :=
  if t.u then s.getReg t.rn + t.size else s.getReg t.rn - t.size

/-- The register combinations to which the block gives no meaning (45_block_data_transfer.md R236). -/
def BlockTransfer.unpredictable (t : BlockTransfer) : Bool :=
  t.w && (t.rn == 15 || t.list.getLsbD t.rn.toNat)

/-! ## Branch -/

/-- The displacement, the sign-extended word offset shifted left by 2 (30_encoding.md R111). -/
def branchDisplacement (offset24 : BitVec 24) : Word := offset24.signExtend 32 <<< 2

end Sys2Proof.Machine
end

