-- ==== Sys2Proof/Machine/Flags.lean ====
section
/-! DEFINITION. The condition table (40_step_pipeline_condition.md R137), AddWithCarry (00_scope.md R12)
and the result and candidate flags of the sixteen opcodes (42_data_processing.md R172 to R176). -/

namespace Sys2Proof.Machine

/-- ConditionPasses, from N, Z, C, V as they stand (40_step_pipeline_condition.md R137; log 13). -/
def conditionPasses (c : Cond) (p : Cpsr) : Bool :=
  match c with
  | .eq => p.z
  | .ne => !p.z
  | .cs => p.c
  | .cc => !p.c
  | .mi => p.n
  | .pl => !p.n
  | .vs => p.v
  | .vc => !p.v
  | .hi => p.c && !p.z
  | .ls => !p.c || p.z
  | .ge => p.n == p.v
  | .lt => p.n != p.v
  | .gt => !p.z && p.n == p.v
  | .le => p.z || p.n != p.v
  | .al => true
  | .nv => false

/-- A failed condition is a no-op for every class (40_step_pipeline_condition.md R136, R138). -/
def conditionally (c : Cond) (k : State → State) (s : State) : State :=
  if conditionPasses c s.cpsr then k s else s

/-- A result word with its candidate carry and overflow. -/
structure AluOut where
  value    : Word
  carry    : Bool
  overflow : Bool
  deriving DecidableEq, Repr

/-- AddWithCarry: the exact unsigned sum decides the carry, the exact signed sum the overflow
(00_scope.md R12). -/
def addWithCarry (x y : Word) (c : Bool) : AluOut :=
  let u := x.toNat + y.toNat + c.toNat
  let sum := x.toInt + y.toInt + c.toNat
  let r := BitVec.ofNat 32 u
  ⟨r, decide (2 ^ 32 ≤ u), decide (sum ≠ r.toInt)⟩

/-- TST, TEQ, CMP, CMN: the result is discarded (42_data_processing.md R175). -/
def compares : Opcode → Bool
  | .tst | .teq | .cmp | .cmn => true
  | .and | .eor | .sub | .rsb | .add | .adc | .sbc | .rsc | .orr | .mov | .bic | .mvn => false

/-- Result(op, a, b, sc, Cin, Vold): a logical opcode takes the shifter's carry and keeps V, an
arithmetic one takes both from AddWithCarry (42_data_processing.md R172 to R174). -/
def aluResult (op : Opcode) (a : Word) (b : ShifterOut) (carryIn vOld : Bool) : AluOut :=
  match op with
  | .and => ⟨a &&& b.value, b.carry, vOld⟩
  | .eor => ⟨a ^^^ b.value, b.carry, vOld⟩
  | .sub => addWithCarry a (~~~b.value) true
  | .rsb => addWithCarry b.value (~~~a) true
  | .add => addWithCarry a b.value false
  | .adc => addWithCarry a b.value carryIn
  | .sbc => addWithCarry a (~~~b.value) carryIn
  | .rsc => addWithCarry b.value (~~~a) carryIn
  | .tst => ⟨a &&& b.value, b.carry, vOld⟩
  | .teq => ⟨a ^^^ b.value, b.carry, vOld⟩
  | .cmp => addWithCarry a (~~~b.value) true
  | .cmn => addWithCarry a b.value false
  | .orr => ⟨a ||| b.value, b.carry, vOld⟩
  | .mov => ⟨b.value, b.carry, vOld⟩
  | .bic => ⟨a &&& ~~~b.value, b.carry, vOld⟩
  | .mvn => ⟨~~~b.value, b.carry, vOld⟩

/-- N, Z, C, V assigned from a result (42_data_processing.md R170, R176). -/
def Cpsr.withFlags (p : Cpsr) (o : AluOut) : Cpsr :=
  { p with n := o.value.getLsbD 31, z := o.value == 0, c := o.carry, v := o.overflow }

/-- The flags written back to the CPSR. -/
def State.setFlags (s : State) (o : AluOut) : State := { s with cpsr := s.cpsr.withFlags o }

end Sys2Proof.Machine
end

