-- ==== Sys2Proof/Machine/BlockTransfer.lean ====
section
/-! DEFINITION. The BlockDataTransfer class (45_block_data_transfer.md). -/

namespace Sys2Proof.Machine

/-- The transfers of a load: each register in turn from the running address, which rises by 4 (R230 part
3, R233). A fault keeps the registers already loaded (R248). -/
def loadRegisters : List Reg → Word → State → Access Unit
  | [], _, s => .done () s
  | i :: rest, addr, s =>
    match s.memRead addr with
    | .done v s' => loadRegisters rest (addr + 4) (s'.writeReg i v)
    | .halted s' => .halted s'

/-- The transfers of a store: each register in turn to the running address, which rises by 4 (R230 part
3, R233). A fault keeps the words already stored (R248). -/
def storeRegisters : List Reg → Word → State → Access Unit
  | [], _, s => .done () s
  | i :: rest, addr, s =>
    match s.memWrite addr (s.getReg i) with
    | .done _ s' => storeRegisters rest (addr + 4) s'
    | .halted s' => .halted s'

/-- The base update, after all transfers (R230 part 4, R234). -/
def BlockTransfer.updateBase (t : BlockTransfer) (newBase : Word) (s : State) : State :=
  if t.w then s.writeReg t.rn newBase else s

/-- ExecBlockTransfer (R230), the condition first: the halts of R235 and R236, the transfers, the base. -/
def blockTransfer (c : Cond) (t : BlockTransfer) (raw : Word) : State → State :=
  conditionally c fun s =>
    if t.sb then s.halt (.unimplementedInstruction raw)
    else if t.unpredictable then s.halt (.unpredictableEncoding raw)
    else
      let transfers := if t.l then loadRegisters else storeRegisters
      (transfers t.registers (t.start s) s).andThen fun _ s' => t.updateBase (t.newBase s) s'

/-- LDMIA (R240). -/
def execLdmia (c : Cond) (sb w : Bool) (rn : Reg) (list : BitVec 16) (st : State) : Result :=
  .next (blockTransfer c ⟨false, true, sb, w, true, rn, list⟩ (encode (.ldmia c sb w rn list)) st)

/-- LDMIB (R241). -/
def execLdmib (c : Cond) (sb w : Bool) (rn : Reg) (list : BitVec 16) (st : State) : Result :=
  .next (blockTransfer c ⟨true, true, sb, w, true, rn, list⟩ (encode (.ldmib c sb w rn list)) st)

/-- LDMDA (R242). -/
def execLdmda (c : Cond) (sb w : Bool) (rn : Reg) (list : BitVec 16) (st : State) : Result :=
  .next (blockTransfer c ⟨false, false, sb, w, true, rn, list⟩ (encode (.ldmda c sb w rn list)) st)

/-- LDMDB (R243). -/
def execLdmdb (c : Cond) (sb w : Bool) (rn : Reg) (list : BitVec 16) (st : State) : Result :=
  .next (blockTransfer c ⟨true, false, sb, w, true, rn, list⟩ (encode (.ldmdb c sb w rn list)) st)

/-- STMIA (R244). -/
def execStmia (c : Cond) (sb w : Bool) (rn : Reg) (list : BitVec 16) (st : State) : Result :=
  .next (blockTransfer c ⟨false, true, sb, w, false, rn, list⟩ (encode (.stmia c sb w rn list)) st)

/-- STMIB (R245). -/
def execStmib (c : Cond) (sb w : Bool) (rn : Reg) (list : BitVec 16) (st : State) : Result :=
  .next (blockTransfer c ⟨true, true, sb, w, false, rn, list⟩ (encode (.stmib c sb w rn list)) st)

/-- STMDA (R246). -/
def execStmda (c : Cond) (sb w : Bool) (rn : Reg) (list : BitVec 16) (st : State) : Result :=
  .next (blockTransfer c ⟨false, false, sb, w, false, rn, list⟩ (encode (.stmda c sb w rn list)) st)

/-- STMDB (R247). -/
def execStmdb (c : Cond) (sb w : Bool) (rn : Reg) (list : BitVec 16) (st : State) : Result :=
  .next (blockTransfer c ⟨true, false, sb, w, false, rn, list⟩ (encode (.stmdb c sb w rn list)) st)

end Sys2Proof.Machine
end

