-- ==== Sys2Proof/Machine/Branch.lean ====
section
/-! DEFINITION. The Branch class (43_branch.md). -/

namespace Sys2Proof.Machine

/-- ExecBranch (R200), the condition first: the link register receives pc - 4, then the program counter
the target, both from the program counter as the instruction reads it. -/
def branch (c : Cond) (link : Bool) (offset24 : BitVec 24) : State → State :=
  conditionally c fun s =>
    let pc := s.getReg 15
    let linked := if link then s.writeReg 14 (pc - 4) else s
    linked.writeReg 15 (pc + branchDisplacement offset24)

/-- B (R201). -/
def execB (c : Cond) (offset24 : BitVec 24) (st : State) : Result := .next (branch c false offset24 st)

/-- BL (R202). -/
def execBl (c : Cond) (offset24 : BitVec 24) (st : State) : Result := .next (branch c true offset24 st)

end Sys2Proof.Machine
end

