-- ==== Sys2Proof/Machine/DataProcess.lean ====
section
/-! DEFINITION. The DataProcess class (42_data_processing.md): one frame, and one meaning for each
opcode in each of the three operand layouts. -/

namespace Sys2Proof.Machine

/-- The forms with the program counter as destination to which the block gives no meaning: a compare,
and a writing opcode with S = 1 in a mode without an SPSR (R177 cases c and d). -/
def dataProcessUnpredictable (op : Opcode) (setFlags : Bool) (rd : Reg) (s : State) : Bool :=
  rd == 15 && (compares op || (setFlags && (s.spsr.slot s.cpsr.mode).isNone))

/-- The result and candidate flags of the instruction in the state it starts in: every operand and the
carry are read before any write (R171, R172). -/
def dataProcessOut (op : Opcode) (rn : Reg) (o : Operand2) (s : State) : AluOut :=
  aluResult op (s.getReg rn) (operand2 o s) s.cpsr.c s.cpsr.v

/-- The destination written unless the opcode compares (R175). -/
def writeDestination (op : Opcode) (rd : Reg) (out : AluOut) (s : State) : State :=
  if compares op then s else s.writeReg rd out.value

/-- The flags: with S = 1 they are written back, or restored from the SPSR when the destination is the
program counter; with S = 0 nothing changes (R176, R177). -/
def writeFlags (setFlags : Bool) (rd : Reg) (out : AluOut) (s : State) : State :=
  if setFlags then if rd = 15 then s.restoreFlags else s.setFlags out else s

/-- ExecDataProcess (R170), the condition first (40_step_pipeline_condition.md R136). -/
def dataProcess (op : Opcode) (c : Cond) (setFlags : Bool) (rn rd : Reg) (o : Operand2) (raw : Word) :
    State → State :=
  conditionally c fun s =>
    if dataProcessUnpredictable op setFlags rd s then s.halt (.unpredictableEncoding raw)
    else
      let out := dataProcessOut op rn o s
      writeFlags setFlags rd out (writeDestination op rd out s)

/-! ## Decode row 10 -/

/-- AND, decode row 10 (R178). -/
def execAndImm (c : Cond) (s : Bool) (rn rd : Reg) (o : ImmOperand) (st : State) : Result :=
  .next (dataProcess .and c s rn rd (.imm o) (encode (.andImm c s rn rd o)) st)

/-- EOR, decode row 10 (R179). -/
def execEorImm (c : Cond) (s : Bool) (rn rd : Reg) (o : ImmOperand) (st : State) : Result :=
  .next (dataProcess .eor c s rn rd (.imm o) (encode (.eorImm c s rn rd o)) st)

/-- SUB, decode row 10 (R180). -/
def execSubImm (c : Cond) (s : Bool) (rn rd : Reg) (o : ImmOperand) (st : State) : Result :=
  .next (dataProcess .sub c s rn rd (.imm o) (encode (.subImm c s rn rd o)) st)

/-- RSB, decode row 10 (R181). -/
def execRsbImm (c : Cond) (s : Bool) (rn rd : Reg) (o : ImmOperand) (st : State) : Result :=
  .next (dataProcess .rsb c s rn rd (.imm o) (encode (.rsbImm c s rn rd o)) st)

/-- ADD, decode row 10 (R182). -/
def execAddImm (c : Cond) (s : Bool) (rn rd : Reg) (o : ImmOperand) (st : State) : Result :=
  .next (dataProcess .add c s rn rd (.imm o) (encode (.addImm c s rn rd o)) st)

/-- ADC, decode row 10 (R183). -/
def execAdcImm (c : Cond) (s : Bool) (rn rd : Reg) (o : ImmOperand) (st : State) : Result :=
  .next (dataProcess .adc c s rn rd (.imm o) (encode (.adcImm c s rn rd o)) st)

/-- SBC, decode row 10 (R184). -/
def execSbcImm (c : Cond) (s : Bool) (rn rd : Reg) (o : ImmOperand) (st : State) : Result :=
  .next (dataProcess .sbc c s rn rd (.imm o) (encode (.sbcImm c s rn rd o)) st)

/-- RSC, decode row 10 (R185). -/
def execRscImm (c : Cond) (s : Bool) (rn rd : Reg) (o : ImmOperand) (st : State) : Result :=
  .next (dataProcess .rsc c s rn rd (.imm o) (encode (.rscImm c s rn rd o)) st)

/-- TST, decode row 10 (R186); S is always 1 (R176). -/
def execTstImm (c : Cond) (rn rd : Reg) (o : ImmOperand) (st : State) : Result :=
  .next (dataProcess .tst c true rn rd (.imm o) (encode (.tstImm c rn rd o)) st)

/-- TEQ, decode row 10 (R187); S is always 1 (R176). -/
def execTeqImm (c : Cond) (rn rd : Reg) (o : ImmOperand) (st : State) : Result :=
  .next (dataProcess .teq c true rn rd (.imm o) (encode (.teqImm c rn rd o)) st)

/-- CMP, decode row 10 (R188); S is always 1 (R176). -/
def execCmpImm (c : Cond) (rn rd : Reg) (o : ImmOperand) (st : State) : Result :=
  .next (dataProcess .cmp c true rn rd (.imm o) (encode (.cmpImm c rn rd o)) st)

/-- CMN, decode row 10 (R189); S is always 1 (R176). -/
def execCmnImm (c : Cond) (rn rd : Reg) (o : ImmOperand) (st : State) : Result :=
  .next (dataProcess .cmn c true rn rd (.imm o) (encode (.cmnImm c rn rd o)) st)

/-- ORR, decode row 10 (R190). -/
def execOrrImm (c : Cond) (s : Bool) (rn rd : Reg) (o : ImmOperand) (st : State) : Result :=
  .next (dataProcess .orr c s rn rd (.imm o) (encode (.orrImm c s rn rd o)) st)

/-- MOV, decode row 10 (R191). -/
def execMovImm (c : Cond) (s : Bool) (rn rd : Reg) (o : ImmOperand) (st : State) : Result :=
  .next (dataProcess .mov c s rn rd (.imm o) (encode (.movImm c s rn rd o)) st)

/-- BIC, decode row 10 (R192). -/
def execBicImm (c : Cond) (s : Bool) (rn rd : Reg) (o : ImmOperand) (st : State) : Result :=
  .next (dataProcess .bic c s rn rd (.imm o) (encode (.bicImm c s rn rd o)) st)

/-- MVN, decode row 10 (R193). -/
def execMvnImm (c : Cond) (s : Bool) (rn rd : Reg) (o : ImmOperand) (st : State) : Result :=
  .next (dataProcess .mvn c s rn rd (.imm o) (encode (.mvnImm c s rn rd o)) st)

/-! ## Decode row 11 -/

/-- AND, decode row 11 (R178). -/
def execAndShImm (c : Cond) (s : Bool) (rn rd : Reg) (o : ShiftImmOperand) (st : State) : Result :=
  .next (dataProcess .and c s rn rd (.shiftImm o) (encode (.andShImm c s rn rd o)) st)

/-- EOR, decode row 11 (R179). -/
def execEorShImm (c : Cond) (s : Bool) (rn rd : Reg) (o : ShiftImmOperand) (st : State) : Result :=
  .next (dataProcess .eor c s rn rd (.shiftImm o) (encode (.eorShImm c s rn rd o)) st)

/-- SUB, decode row 11 (R180). -/
def execSubShImm (c : Cond) (s : Bool) (rn rd : Reg) (o : ShiftImmOperand) (st : State) : Result :=
  .next (dataProcess .sub c s rn rd (.shiftImm o) (encode (.subShImm c s rn rd o)) st)

/-- RSB, decode row 11 (R181). -/
def execRsbShImm (c : Cond) (s : Bool) (rn rd : Reg) (o : ShiftImmOperand) (st : State) : Result :=
  .next (dataProcess .rsb c s rn rd (.shiftImm o) (encode (.rsbShImm c s rn rd o)) st)

/-- ADD, decode row 11 (R182). -/
def execAddShImm (c : Cond) (s : Bool) (rn rd : Reg) (o : ShiftImmOperand) (st : State) : Result :=
  .next (dataProcess .add c s rn rd (.shiftImm o) (encode (.addShImm c s rn rd o)) st)

/-- ADC, decode row 11 (R183). -/
def execAdcShImm (c : Cond) (s : Bool) (rn rd : Reg) (o : ShiftImmOperand) (st : State) : Result :=
  .next (dataProcess .adc c s rn rd (.shiftImm o) (encode (.adcShImm c s rn rd o)) st)

/-- SBC, decode row 11 (R184). -/
def execSbcShImm (c : Cond) (s : Bool) (rn rd : Reg) (o : ShiftImmOperand) (st : State) : Result :=
  .next (dataProcess .sbc c s rn rd (.shiftImm o) (encode (.sbcShImm c s rn rd o)) st)

/-- RSC, decode row 11 (R185). -/
def execRscShImm (c : Cond) (s : Bool) (rn rd : Reg) (o : ShiftImmOperand) (st : State) : Result :=
  .next (dataProcess .rsc c s rn rd (.shiftImm o) (encode (.rscShImm c s rn rd o)) st)

/-- TST, decode row 11 (R186); S is always 1 (R176). -/
def execTstShImm (c : Cond) (rn rd : Reg) (o : ShiftImmOperand) (st : State) : Result :=
  .next (dataProcess .tst c true rn rd (.shiftImm o) (encode (.tstShImm c rn rd o)) st)

/-- TEQ, decode row 11 (R187); S is always 1 (R176). -/
def execTeqShImm (c : Cond) (rn rd : Reg) (o : ShiftImmOperand) (st : State) : Result :=
  .next (dataProcess .teq c true rn rd (.shiftImm o) (encode (.teqShImm c rn rd o)) st)

/-- CMP, decode row 11 (R188); S is always 1 (R176). -/
def execCmpShImm (c : Cond) (rn rd : Reg) (o : ShiftImmOperand) (st : State) : Result :=
  .next (dataProcess .cmp c true rn rd (.shiftImm o) (encode (.cmpShImm c rn rd o)) st)

/-- CMN, decode row 11 (R189); S is always 1 (R176). -/
def execCmnShImm (c : Cond) (rn rd : Reg) (o : ShiftImmOperand) (st : State) : Result :=
  .next (dataProcess .cmn c true rn rd (.shiftImm o) (encode (.cmnShImm c rn rd o)) st)

/-- ORR, decode row 11 (R190). -/
def execOrrShImm (c : Cond) (s : Bool) (rn rd : Reg) (o : ShiftImmOperand) (st : State) : Result :=
  .next (dataProcess .orr c s rn rd (.shiftImm o) (encode (.orrShImm c s rn rd o)) st)

/-- MOV, decode row 11 (R191). -/
def execMovShImm (c : Cond) (s : Bool) (rn rd : Reg) (o : ShiftImmOperand) (st : State) : Result :=
  .next (dataProcess .mov c s rn rd (.shiftImm o) (encode (.movShImm c s rn rd o)) st)

/-- BIC, decode row 11 (R192). -/
def execBicShImm (c : Cond) (s : Bool) (rn rd : Reg) (o : ShiftImmOperand) (st : State) : Result :=
  .next (dataProcess .bic c s rn rd (.shiftImm o) (encode (.bicShImm c s rn rd o)) st)

/-- MVN, decode row 11 (R193). -/
def execMvnShImm (c : Cond) (s : Bool) (rn rd : Reg) (o : ShiftImmOperand) (st : State) : Result :=
  .next (dataProcess .mvn c s rn rd (.shiftImm o) (encode (.mvnShImm c s rn rd o)) st)

/-! ## Decode row 12 -/

/-- AND, decode row 12 (R178). -/
def execAndShReg (c : Cond) (s : Bool) (rn rd : Reg) (o : ShiftRegOperand) (st : State) : Result :=
  .next (dataProcess .and c s rn rd (.shiftReg o) (encode (.andShReg c s rn rd o)) st)

/-- EOR, decode row 12 (R179). -/
def execEorShReg (c : Cond) (s : Bool) (rn rd : Reg) (o : ShiftRegOperand) (st : State) : Result :=
  .next (dataProcess .eor c s rn rd (.shiftReg o) (encode (.eorShReg c s rn rd o)) st)

/-- SUB, decode row 12 (R180). -/
def execSubShReg (c : Cond) (s : Bool) (rn rd : Reg) (o : ShiftRegOperand) (st : State) : Result :=
  .next (dataProcess .sub c s rn rd (.shiftReg o) (encode (.subShReg c s rn rd o)) st)

/-- RSB, decode row 12 (R181). -/
def execRsbShReg (c : Cond) (s : Bool) (rn rd : Reg) (o : ShiftRegOperand) (st : State) : Result :=
  .next (dataProcess .rsb c s rn rd (.shiftReg o) (encode (.rsbShReg c s rn rd o)) st)

/-- ADD, decode row 12 (R182). -/
def execAddShReg (c : Cond) (s : Bool) (rn rd : Reg) (o : ShiftRegOperand) (st : State) : Result :=
  .next (dataProcess .add c s rn rd (.shiftReg o) (encode (.addShReg c s rn rd o)) st)

/-- ADC, decode row 12 (R183). -/
def execAdcShReg (c : Cond) (s : Bool) (rn rd : Reg) (o : ShiftRegOperand) (st : State) : Result :=
  .next (dataProcess .adc c s rn rd (.shiftReg o) (encode (.adcShReg c s rn rd o)) st)

/-- SBC, decode row 12 (R184). -/
def execSbcShReg (c : Cond) (s : Bool) (rn rd : Reg) (o : ShiftRegOperand) (st : State) : Result :=
  .next (dataProcess .sbc c s rn rd (.shiftReg o) (encode (.sbcShReg c s rn rd o)) st)

/-- RSC, decode row 12 (R185). -/
def execRscShReg (c : Cond) (s : Bool) (rn rd : Reg) (o : ShiftRegOperand) (st : State) : Result :=
  .next (dataProcess .rsc c s rn rd (.shiftReg o) (encode (.rscShReg c s rn rd o)) st)

/-- TST, decode row 12 (R186); S is always 1 (R176). -/
def execTstShReg (c : Cond) (rn rd : Reg) (o : ShiftRegOperand) (st : State) : Result :=
  .next (dataProcess .tst c true rn rd (.shiftReg o) (encode (.tstShReg c rn rd o)) st)

/-- TEQ, decode row 12 (R187); S is always 1 (R176). -/
def execTeqShReg (c : Cond) (rn rd : Reg) (o : ShiftRegOperand) (st : State) : Result :=
  .next (dataProcess .teq c true rn rd (.shiftReg o) (encode (.teqShReg c rn rd o)) st)

/-- CMP, decode row 12 (R188); S is always 1 (R176). -/
def execCmpShReg (c : Cond) (rn rd : Reg) (o : ShiftRegOperand) (st : State) : Result :=
  .next (dataProcess .cmp c true rn rd (.shiftReg o) (encode (.cmpShReg c rn rd o)) st)

/-- CMN, decode row 12 (R189); S is always 1 (R176). -/
def execCmnShReg (c : Cond) (rn rd : Reg) (o : ShiftRegOperand) (st : State) : Result :=
  .next (dataProcess .cmn c true rn rd (.shiftReg o) (encode (.cmnShReg c rn rd o)) st)

/-- ORR, decode row 12 (R190). -/
def execOrrShReg (c : Cond) (s : Bool) (rn rd : Reg) (o : ShiftRegOperand) (st : State) : Result :=
  .next (dataProcess .orr c s rn rd (.shiftReg o) (encode (.orrShReg c s rn rd o)) st)

/-- MOV, decode row 12 (R191). -/
def execMovShReg (c : Cond) (s : Bool) (rn rd : Reg) (o : ShiftRegOperand) (st : State) : Result :=
  .next (dataProcess .mov c s rn rd (.shiftReg o) (encode (.movShReg c s rn rd o)) st)

/-- BIC, decode row 12 (R192). -/
def execBicShReg (c : Cond) (s : Bool) (rn rd : Reg) (o : ShiftRegOperand) (st : State) : Result :=
  .next (dataProcess .bic c s rn rd (.shiftReg o) (encode (.bicShReg c s rn rd o)) st)

/-- MVN, decode row 12 (R193). -/
def execMvnShReg (c : Cond) (s : Bool) (rn rd : Reg) (o : ShiftRegOperand) (st : State) : Result :=
  .next (dataProcess .mvn c s rn rd (.shiftReg o) (encode (.mvnShReg c s rn rd o)) st)

end Sys2Proof.Machine
end

