-- ==== Sys2Proof/Machine/SingleTransfer.lean ====
section
/-! DEFINITION. The SingleDataTransfer class (44_single_data_transfer.md). -/

namespace Sys2Proof.Machine

/-- The base update, after the access: the computed address, where there is write-back (R210 part 4,
R214). -/
def SingleTransfer.updateBase (t : SingleTransfer) (computed : Word) (s : State) : State :=
  if t.writesBack then s.writeReg t.rn computed else s

/-- ExecSingleTransfer (R210), the condition first: the halts of R215 and R216, the operands as the
instruction finds them, the one access, the destination of a load, the base. A faulted access halts
before the two register writes (R227). -/
def singleTransfer (c : Cond) (t : SingleTransfer) (raw : Word) : State → State :=
  conditionally c fun s =>
    if t.b then s.halt (.unimplementedInstruction raw)
    else if t.unpredictable then s.halt (.unpredictableEncoding raw)
    else if t.l then
      (s.memRead (t.address s)).andThen fun v s' => t.updateBase (t.computed s) (s'.writeReg t.rd v)
    else
      (s.memWrite (t.address s) (s.getReg t.rd)).andThen fun _ s' => t.updateBase (t.computed s) s'

/-- LDRT (R223): post-indexed, as LDR. -/
def execLdrt (c : Cond) (u : Bool) (rn rd : Reg) (off : TransferOffset) (st : State) : Result :=
  .next (singleTransfer c ⟨false, u, false, true, true, rn, rd, off⟩ (encode (.ldrt c u rn rd off)) st)

/-- STRT (R224): post-indexed, as STR. -/
def execStrt (c : Cond) (u : Bool) (rn rd : Reg) (off : TransferOffset) (st : State) : Result :=
  .next (singleTransfer c ⟨false, u, false, true, false, rn, rd, off⟩ (encode (.strt c u rn rd off)) st)

/-- LDRBT (R225): a byte transfer. -/
def execLdrbt (c : Cond) (u : Bool) (rn rd : Reg) (off : TransferOffset) (st : State) : Result :=
  .next (singleTransfer c ⟨false, u, true, true, true, rn, rd, off⟩ (encode (.ldrbt c u rn rd off)) st)

/-- STRBT (R226): a byte transfer. -/
def execStrbt (c : Cond) (u : Bool) (rn rd : Reg) (off : TransferOffset) (st : State) : Result :=
  .next (singleTransfer c ⟨false, u, true, true, false, rn, rd, off⟩ (encode (.strbt c u rn rd off)) st)

/-- LDR (R217, R218). -/
def execLdr (c : Cond) (p u w : Bool) (rn rd : Reg) (off : TransferOffset) (st : State) : Result :=
  .next (singleTransfer c ⟨p, u, false, w, true, rn, rd, off⟩ (encode (.ldr c p u w rn rd off)) st)

/-- STR (R219, R220). -/
def execStr (c : Cond) (p u w : Bool) (rn rd : Reg) (off : TransferOffset) (st : State) : Result :=
  .next (singleTransfer c ⟨p, u, false, w, false, rn, rd, off⟩ (encode (.str c p u w rn rd off)) st)

/-- LDRB (R221): a byte transfer. -/
def execLdrb (c : Cond) (p u w : Bool) (rn rd : Reg) (off : TransferOffset) (st : State) : Result :=
  .next (singleTransfer c ⟨p, u, true, w, true, rn, rd, off⟩ (encode (.ldrb c p u w rn rd off)) st)

/-- STRB (R222): a byte transfer. -/
def execStrb (c : Cond) (p u w : Bool) (rn rd : Reg) (off : TransferOffset) (st : State) : Result :=
  .next (singleTransfer c ⟨p, u, true, w, false, rn, rd, off⟩ (encode (.strb c p u w rn rd off)) st)

end Sys2Proof.Machine
end

