-- ==== Sys2Proof/Machine/Unexecuted.lean ====
section
/-! DEFINITION. The classes that are decoded and not executed (46_unexecuted_classes.md): the effect the
spec gives each of them is the halt with UnimplementedInstruction, "a model must not add" the
architectural behaviour (R275). -/

namespace Sys2Proof.Machine

/-- The common rule: when the condition passes the core halts, and nothing else changes (R250); when it
fails the instruction is a no-op (R276). -/
def unexecuted (i : Instr) : State → State :=
  conditionally i.cond fun s => s.halt (.unimplementedInstruction (encode i))

/-- MUL (R251). -/
def execMul (c : Cond) (s : Bool) (rd rn rs rm : Reg) (st : State) :
    Result :=
  .next (unexecuted (.mul c s rd rn rs rm) st)

/-- MLA (R252). -/
def execMla (c : Cond) (s : Bool) (rd rn rs rm : Reg) (st : State) :
    Result :=
  .next (unexecuted (.mla c s rd rn rs rm) st)

/-- UMULL (R253). -/
def execUmull (c : Cond) (f : LongMultiplyFields) (st : State) :
    Result :=
  .next (unexecuted (.umull c f) st)

/-- UMLAL (R254). -/
def execUmlal (c : Cond) (f : LongMultiplyFields) (st : State) :
    Result :=
  .next (unexecuted (.umlal c f) st)

/-- SMULL (R255). -/
def execSmull (c : Cond) (f : LongMultiplyFields) (st : State) :
    Result :=
  .next (unexecuted (.smull c f) st)

/-- SMLAL (R256). -/
def execSmlal (c : Cond) (f : LongMultiplyFields) (st : State) :
    Result :=
  .next (unexecuted (.smlal c f) st)

/-- MRS (R257). -/
def execMrs (c : Cond) (ps : Bool) (rd : Reg) (st : State) :
    Result :=
  .next (unexecuted (.mrs c ps rd) st)

/-- MSR with a register operand (R258). -/
def execMsrReg (c : Cond) (ps : Bool) (fieldMask : BitVec 4) (rm : Reg) (st : State) :
    Result :=
  .next (unexecuted (.msrReg c ps fieldMask rm) st)

/-- MSR with an immediate operand (R259). -/
def execMsrImm (c : Cond) (ps : Bool) (fieldMask : BitVec 4) (o : ImmOperand) (st : State) :
    Result :=
  .next (unexecuted (.msrImm c ps fieldMask o) st)

/-- BX (R260). -/
def execBx (c : Cond) (rm : Reg) (st : State) : Result := .next (unexecuted (.bx c rm) st)

/-- STRH (R261). -/
def execStrh (c : Cond) (f : ExtensionFields) (st : State) :
    Result :=
  .next (unexecuted (.strh c f) st)

/-- LDRH (R262). -/
def execLdrh (c : Cond) (f : ExtensionFields) (st : State) :
    Result :=
  .next (unexecuted (.ldrh c f) st)

/-- LDRSB (R263). -/
def execLdrsb (c : Cond) (f : ExtensionFields) (st : State) :
    Result :=
  .next (unexecuted (.ldrsb c f) st)

/-- LDRSH (R264). -/
def execLdrsh (c : Cond) (f : ExtensionFields) (st : State) :
    Result :=
  .next (unexecuted (.ldrsh c f) st)

/-- LSE_UNNAMED, the other words of class LoadStoreExtension (R265). -/
def execLseUnnamed (c : Cond) (h : Bool) (f : ExtensionFields) (st : State) :
    Result :=
  .next (unexecuted (.lseUnnamed c h f) st)

/-- LDC (R266). -/
def execLdc (c : Cond) (f : CoTransferFields) (st : State) :
    Result :=
  .next (unexecuted (.ldc c f) st)

/-- STC (R267). -/
def execStc (c : Cond) (f : CoTransferFields) (st : State) :
    Result :=
  .next (unexecuted (.stc c f) st)

/-- CDP (R268). -/
def execCdp (c : Cond) (opc1 crn crd cpNum : BitVec 4) (opc2 : BitVec 3) (crm : BitVec 4) (st : State) :
    Result :=
  .next (unexecuted (.cdp c opc1 crn crd cpNum opc2 crm) st)

/-- MCR (R269). -/
def execMcr (c : Cond) (f : CoRegisterFields) (st : State) :
    Result :=
  .next (unexecuted (.mcr c f) st)

/-- MRC (R270). -/
def execMrc (c : Cond) (f : CoRegisterFields) (st : State) :
    Result :=
  .next (unexecuted (.mrc c f) st)

/-- SWI (R271). -/
def execSwi (c : Cond) (comment24 : BitVec 24) (st : State) :
    Result :=
  .next (unexecuted (.swi c comment24) st)

/-- UND of decode row 4 (R272). -/
def execUndRow4 (raw : Word) (st : State) : Result := .next (unexecuted (.undRow4 raw) st)

/-- UND of decode row 9 (R272). -/
def execUndRow9 (raw : Word) (st : State) : Result := .next (unexecuted (.undRow9 raw) st)

/-- UND of decode row 13 (R272). -/
def execUndRow13 (raw : Word) (st : State) : Result := .next (unexecuted (.undRow13 raw) st)

/-- UND of the last row (R272). -/
def execUndLast (raw : Word) (st : State) : Result := .next (unexecuted (.undLast raw) st)

/-- SWP (R273). -/
def execSwp (raw : Word) (st : State) : Result := .next (unexecuted (.swp raw) st)

/-- SWPB (R274). -/
def execSwpb (raw : Word) (st : State) : Result := .next (unexecuted (.swpb raw) st)

end Sys2Proof.Machine
end

