-- ==== Sys2Proof/Machine/Dispatch.lean ====
section
/-! DEFINITION. Execute (40_step_pipeline_condition.md R136): one arm for each constructor of Instr, in
the order of the opcode table. -/

namespace Sys2Proof.Machine

def exec (i : Instr) (s : State) : Host.Outcome State Fault Refusal :=
  match i with
  | .bx c rm => Sys2Proof.Machine.execBx c rm s
  | .mul c setFlags rd rn rs rm => Sys2Proof.Machine.execMul c setFlags rd rn rs rm s
  | .mla c setFlags rd rn rs rm => Sys2Proof.Machine.execMla c setFlags rd rn rs rm s
  | .umull c f => Sys2Proof.Machine.execUmull c f s
  | .umlal c f => Sys2Proof.Machine.execUmlal c f s
  | .smull c f => Sys2Proof.Machine.execSmull c f s
  | .smlal c f => Sys2Proof.Machine.execSmlal c f s
  | .swp raw => Sys2Proof.Machine.execSwp raw s
  | .swpb raw => Sys2Proof.Machine.execSwpb raw s
  | .undRow4 raw => Sys2Proof.Machine.execUndRow4 raw s
  | .strh c f => Sys2Proof.Machine.execStrh c f s
  | .ldrh c f => Sys2Proof.Machine.execLdrh c f s
  | .ldrsb c f => Sys2Proof.Machine.execLdrsb c f s
  | .ldrsh c f => Sys2Proof.Machine.execLdrsh c f s
  | .lseUnnamed c h f => Sys2Proof.Machine.execLseUnnamed c h f s
  | .mrs c ps rd => Sys2Proof.Machine.execMrs c ps rd s
  | .msrReg c ps fieldMask rm => Sys2Proof.Machine.execMsrReg c ps fieldMask rm s
  | .msrImm c ps fieldMask o => Sys2Proof.Machine.execMsrImm c ps fieldMask o s
  | .undRow9 raw => Sys2Proof.Machine.execUndRow9 raw s
  | .andImm c setFlags rn rd o => Sys2Proof.Machine.execAndImm c setFlags rn rd o s
  | .eorImm c setFlags rn rd o => Sys2Proof.Machine.execEorImm c setFlags rn rd o s
  | .subImm c setFlags rn rd o => Sys2Proof.Machine.execSubImm c setFlags rn rd o s
  | .rsbImm c setFlags rn rd o => Sys2Proof.Machine.execRsbImm c setFlags rn rd o s
  | .addImm c setFlags rn rd o => Sys2Proof.Machine.execAddImm c setFlags rn rd o s
  | .adcImm c setFlags rn rd o => Sys2Proof.Machine.execAdcImm c setFlags rn rd o s
  | .sbcImm c setFlags rn rd o => Sys2Proof.Machine.execSbcImm c setFlags rn rd o s
  | .rscImm c setFlags rn rd o => Sys2Proof.Machine.execRscImm c setFlags rn rd o s
  | .tstImm c rn rd o => Sys2Proof.Machine.execTstImm c rn rd o s
  | .teqImm c rn rd o => Sys2Proof.Machine.execTeqImm c rn rd o s
  | .cmpImm c rn rd o => Sys2Proof.Machine.execCmpImm c rn rd o s
  | .cmnImm c rn rd o => Sys2Proof.Machine.execCmnImm c rn rd o s
  | .orrImm c setFlags rn rd o => Sys2Proof.Machine.execOrrImm c setFlags rn rd o s
  | .movImm c setFlags rn rd o => Sys2Proof.Machine.execMovImm c setFlags rn rd o s
  | .bicImm c setFlags rn rd o => Sys2Proof.Machine.execBicImm c setFlags rn rd o s
  | .mvnImm c setFlags rn rd o => Sys2Proof.Machine.execMvnImm c setFlags rn rd o s
  | .andShImm c setFlags rn rd o => Sys2Proof.Machine.execAndShImm c setFlags rn rd o s
  | .eorShImm c setFlags rn rd o => Sys2Proof.Machine.execEorShImm c setFlags rn rd o s
  | .subShImm c setFlags rn rd o => Sys2Proof.Machine.execSubShImm c setFlags rn rd o s
  | .rsbShImm c setFlags rn rd o => Sys2Proof.Machine.execRsbShImm c setFlags rn rd o s
  | .addShImm c setFlags rn rd o => Sys2Proof.Machine.execAddShImm c setFlags rn rd o s
  | .adcShImm c setFlags rn rd o => Sys2Proof.Machine.execAdcShImm c setFlags rn rd o s
  | .sbcShImm c setFlags rn rd o => Sys2Proof.Machine.execSbcShImm c setFlags rn rd o s
  | .rscShImm c setFlags rn rd o => Sys2Proof.Machine.execRscShImm c setFlags rn rd o s
  | .tstShImm c rn rd o => Sys2Proof.Machine.execTstShImm c rn rd o s
  | .teqShImm c rn rd o => Sys2Proof.Machine.execTeqShImm c rn rd o s
  | .cmpShImm c rn rd o => Sys2Proof.Machine.execCmpShImm c rn rd o s
  | .cmnShImm c rn rd o => Sys2Proof.Machine.execCmnShImm c rn rd o s
  | .orrShImm c setFlags rn rd o => Sys2Proof.Machine.execOrrShImm c setFlags rn rd o s
  | .movShImm c setFlags rn rd o => Sys2Proof.Machine.execMovShImm c setFlags rn rd o s
  | .bicShImm c setFlags rn rd o => Sys2Proof.Machine.execBicShImm c setFlags rn rd o s
  | .mvnShImm c setFlags rn rd o => Sys2Proof.Machine.execMvnShImm c setFlags rn rd o s
  | .andShReg c setFlags rn rd o => Sys2Proof.Machine.execAndShReg c setFlags rn rd o s
  | .eorShReg c setFlags rn rd o => Sys2Proof.Machine.execEorShReg c setFlags rn rd o s
  | .subShReg c setFlags rn rd o => Sys2Proof.Machine.execSubShReg c setFlags rn rd o s
  | .rsbShReg c setFlags rn rd o => Sys2Proof.Machine.execRsbShReg c setFlags rn rd o s
  | .addShReg c setFlags rn rd o => Sys2Proof.Machine.execAddShReg c setFlags rn rd o s
  | .adcShReg c setFlags rn rd o => Sys2Proof.Machine.execAdcShReg c setFlags rn rd o s
  | .sbcShReg c setFlags rn rd o => Sys2Proof.Machine.execSbcShReg c setFlags rn rd o s
  | .rscShReg c setFlags rn rd o => Sys2Proof.Machine.execRscShReg c setFlags rn rd o s
  | .tstShReg c rn rd o => Sys2Proof.Machine.execTstShReg c rn rd o s
  | .teqShReg c rn rd o => Sys2Proof.Machine.execTeqShReg c rn rd o s
  | .cmpShReg c rn rd o => Sys2Proof.Machine.execCmpShReg c rn rd o s
  | .cmnShReg c rn rd o => Sys2Proof.Machine.execCmnShReg c rn rd o s
  | .orrShReg c setFlags rn rd o => Sys2Proof.Machine.execOrrShReg c setFlags rn rd o s
  | .movShReg c setFlags rn rd o => Sys2Proof.Machine.execMovShReg c setFlags rn rd o s
  | .bicShReg c setFlags rn rd o => Sys2Proof.Machine.execBicShReg c setFlags rn rd o s
  | .mvnShReg c setFlags rn rd o => Sys2Proof.Machine.execMvnShReg c setFlags rn rd o s
  | .undRow13 raw => Sys2Proof.Machine.execUndRow13 raw s
  | .ldrt c u rn rd off => Sys2Proof.Machine.execLdrt c u rn rd off s
  | .strt c u rn rd off => Sys2Proof.Machine.execStrt c u rn rd off s
  | .ldrbt c u rn rd off => Sys2Proof.Machine.execLdrbt c u rn rd off s
  | .strbt c u rn rd off => Sys2Proof.Machine.execStrbt c u rn rd off s
  | .ldr c p u w rn rd off => Sys2Proof.Machine.execLdr c p u w rn rd off s
  | .str c p u w rn rd off => Sys2Proof.Machine.execStr c p u w rn rd off s
  | .ldrb c p u w rn rd off => Sys2Proof.Machine.execLdrb c p u w rn rd off s
  | .strb c p u w rn rd off => Sys2Proof.Machine.execStrb c p u w rn rd off s
  | .ldmia c sb w rn list => Sys2Proof.Machine.execLdmia c sb w rn list s
  | .ldmib c sb w rn list => Sys2Proof.Machine.execLdmib c sb w rn list s
  | .ldmda c sb w rn list => Sys2Proof.Machine.execLdmda c sb w rn list s
  | .ldmdb c sb w rn list => Sys2Proof.Machine.execLdmdb c sb w rn list s
  | .stmia c sb w rn list => Sys2Proof.Machine.execStmia c sb w rn list s
  | .stmib c sb w rn list => Sys2Proof.Machine.execStmib c sb w rn list s
  | .stmda c sb w rn list => Sys2Proof.Machine.execStmda c sb w rn list s
  | .stmdb c sb w rn list => Sys2Proof.Machine.execStmdb c sb w rn list s
  | .b c offset24 => Sys2Proof.Machine.execB c offset24 s
  | .bl c offset24 => Sys2Proof.Machine.execBl c offset24 s
  | .ldc c f => Sys2Proof.Machine.execLdc c f s
  | .stc c f => Sys2Proof.Machine.execStc c f s
  | .cdp c opc1 crn crd cpNum opc2 crm => Sys2Proof.Machine.execCdp c opc1 crn crd cpNum opc2 crm s
  | .mcr c f => Sys2Proof.Machine.execMcr c f s
  | .mrc c f => Sys2Proof.Machine.execMrc c f s
  | .swi c comment24 => Sys2Proof.Machine.execSwi c comment24 s
  | .undLast raw => Sys2Proof.Machine.execUndLast raw s

end Sys2Proof.Machine
end

