-- ==== Sys2Proof/Machine/Pipeline.lean ====
section
/-! DEFINITION. The pipeline controller's part of a step, after execution: flush, or decode, fetch and
advance (40_step_pipeline_condition.md R130 parts 2 to 4). -/

namespace Sys2Proof.Machine

/-- Decoding inside the step: the pure decoder applied to the word fetched (R130 part 2b, R135). -/
def FetchSlot.decodeNow : FetchSlot → DecodeSlot
  | .none => .none
  | .word w => .instr (decode w)
  | .fetchFault a => .fetchFault a

/-- Flush: both slots are cleared, the program counter keeps what the instruction wrote, and no fetch is
made (R130 part 2a, R132). -/
def State.flush (s : State) : State := { s with fetched := .none, decoded := .none, branched := false }

/-- Decode the pending word, fetch at the program counter, advance it by 4 (R130 parts 2b, 3, 4). -/
def State.advance (s : State) : State :=
  let a := s.pc
  ({ s with decoded := s.fetched.decodeNow }.fetch a).setPc (a + 4)

/-- The rest of a step once execution is over: nothing when the core halted in it (R144), a flush when the
instruction wrote r15, else decode, fetch and advance. The step-local flag is false again after it. -/
def State.completeStep (s : State) : State :=
  if s.halted.isSome then { s with branched := false }
  else if s.branched then s.flush
  else s.advance

/-- The state execution starts from: `branched <- false` (R130). -/
def State.beginStep (s : State) : State := { s with branched := false }

/-- A word placed behind the bus at an address, from outside the machine (70_reset_and_hazards.md R304). -/
def State.placeWord (s : State) (a w : Word) : State :=
  { s with bus := { s.bus with mem := s.bus.mem.writeWord s.bus.order a w } }

/-- The core with an Empty pipeline, not halted: where start-up begins (R139). -/
def State.emptyPipeline (s : State) : State :=
  { s with fetched := .none, decoded := .none, halted := none, branched := false }

end Sys2Proof.Machine
end

