-- ==== Sys2Proof/Machine/Step.lean ====
section
/-! DEFINITION. The step (40_step_pipeline_condition.md R130). -/

namespace Sys2Proof.Machine

/-- One step: nothing for a halted core (R143); else execute the instruction decoded in the previous step,
or raise its deferred fetch fault (R133), and complete the step. -/
def step (s : State) : Host.Outcome State Fault Refusal :=
  if s.halted.isSome then .next s
  else
    match s.decoded with
    | .none => .next s.beginStep.completeStep
    | .fetchFault a => .next (s.beginStep.halt (.busFault a .fetch)).completeStep
    | .instr i =>
      match exec i s.beginStep with
      | .next t => .next t.completeStep
      | .fault f => .fault f
      | .refused r => .refused r

/-- `s` with the instruction word placed so that the very next step runs it: the word stands at the
program counter A, the two idle steps of start-up have fetched it and the word at A + 4, and it is the
decoded instruction, so that the program counter reads A + 8 (R139; log 7). -/
def State.withFetchWord (s : State) (nbits w : Nat) : State :=
  let word := BitVec.ofNat 32 (w % 2 ^ nbits)
  let started := (s.placeWord s.pc word).emptyPipeline.advance.advance
  { started with decoded := .instr (decode word) }

end Sys2Proof.Machine
end

