-- ==== Sys2Proof/Machine/HostOps.lean ====
section
/-! DEFINITION. The operations of the host on the state (10_state.md R34 to R39, 70_reset_and_hazards.md
R301). New is `State.new`, beside the state; Step is `step`. They are made between steps only (R309). -/

namespace Sys2Proof.Machine

/-- SetMode(m): the active mode and with it CPSR.M; no register is copied, no SPSR written, the pipeline
kept (10_state.md R36). -/
def State.setMode (s : State) (m : Mode) : State := { s with cpsr := { s.cpsr with mode := m } }

/-- StoreSPSR(): the CPSR word into the slot of the active mode; nothing in User and System (10_state.md
R37). -/
def State.storeSpsr (s : State) : State :=
  { s with spsr := s.spsr.setSlot s.cpsr.mode s.cpsr.word }

/-- ReadReg(i) (10_state.md R38). -/
def State.hostReadReg (s : State) (i : Reg) : Word := s.getReg i

/-- WriteReg(i, v): without `branched`, without touching the pipeline (10_state.md R38). -/
def State.hostWriteReg (s : State) (i : Reg) (v : Word) : State := s.setReg i v

/-- ReadCPSR() (10_state.md R39). -/
def State.readCpsr (s : State) : Word := s.cpsr.word

/-- Reset(): every register 0 but r14 of the then-active mode, which holds RESET_LR, a free word; every
flag and SPSR 0; Supervisor; Empty; not halted. What stands behind the bus is not touched
(70_reset_and_hazards.md R301, R303; log 6, 14). -/
def State.hostReset (s : State) : State :=
  { s.drawn with
    regs := RegFile.zero.set (phys s.cpsr.mode 14) s.freeWord
    cpsr := .afterNew
    spsr := .zero
    fetched := .none
    decoded := .none
    halted := none
    branched := false }

end Sys2Proof.Machine
end

