-- ==== Sys2Proof/Safety.lean ====
section
/-! DEFINITION. The terms the claims use: the families of instructions as functions of their fields, what
stays as it was, and the invariant of the machine (10_state.md R43). -/

namespace Sys2Proof

/-- The classes whose instructions have an effect other than the halt (00_scope.md R19). -/
def InstrClass.executed : InstrClass → Bool
  | .dataProcess | .branch | .singleDataTransfer | .blockDataTransfer => true
  | .multiply | .controlImmediate | .controlRegister | .branchExchange | .loadStoreExtension
  | .coProcessorDataTransfer | .coProcessorDataOperation | .coProcessorRegisterTransfer
  | .softwareInterrupt | .undefined => false

end Sys2Proof

namespace Sys2Proof.Machine

/-! ## Families of instructions -/

/-- The data-processing instruction of an opcode, in the layout of its operand. The compare opcodes have no
S field of their own: it is always 1 (42_data_processing.md R176). -/
def dataInstr (op : Opcode) (c : Cond) (s : Bool) (rn rd : Reg) (o : Operand2) : Instr :=
  match op, o with
  | .and, .imm o => .andImm c s rn rd o
  | .and, .shiftImm o => .andShImm c s rn rd o
  | .and, .shiftReg o => .andShReg c s rn rd o
  | .eor, .imm o => .eorImm c s rn rd o
  | .eor, .shiftImm o => .eorShImm c s rn rd o
  | .eor, .shiftReg o => .eorShReg c s rn rd o
  | .sub, .imm o => .subImm c s rn rd o
  | .sub, .shiftImm o => .subShImm c s rn rd o
  | .sub, .shiftReg o => .subShReg c s rn rd o
  | .rsb, .imm o => .rsbImm c s rn rd o
  | .rsb, .shiftImm o => .rsbShImm c s rn rd o
  | .rsb, .shiftReg o => .rsbShReg c s rn rd o
  | .add, .imm o => .addImm c s rn rd o
  | .add, .shiftImm o => .addShImm c s rn rd o
  | .add, .shiftReg o => .addShReg c s rn rd o
  | .adc, .imm o => .adcImm c s rn rd o
  | .adc, .shiftImm o => .adcShImm c s rn rd o
  | .adc, .shiftReg o => .adcShReg c s rn rd o
  | .sbc, .imm o => .sbcImm c s rn rd o
  | .sbc, .shiftImm o => .sbcShImm c s rn rd o
  | .sbc, .shiftReg o => .sbcShReg c s rn rd o
  | .rsc, .imm o => .rscImm c s rn rd o
  | .rsc, .shiftImm o => .rscShImm c s rn rd o
  | .rsc, .shiftReg o => .rscShReg c s rn rd o
  | .tst, .imm o => .tstImm c rn rd o
  | .tst, .shiftImm o => .tstShImm c rn rd o
  | .tst, .shiftReg o => .tstShReg c rn rd o
  | .teq, .imm o => .teqImm c rn rd o
  | .teq, .shiftImm o => .teqShImm c rn rd o
  | .teq, .shiftReg o => .teqShReg c rn rd o
  | .cmp, .imm o => .cmpImm c rn rd o
  | .cmp, .shiftImm o => .cmpShImm c rn rd o
  | .cmp, .shiftReg o => .cmpShReg c rn rd o
  | .cmn, .imm o => .cmnImm c rn rd o
  | .cmn, .shiftImm o => .cmnShImm c rn rd o
  | .cmn, .shiftReg o => .cmnShReg c rn rd o
  | .orr, .imm o => .orrImm c s rn rd o
  | .orr, .shiftImm o => .orrShImm c s rn rd o
  | .orr, .shiftReg o => .orrShReg c s rn rd o
  | .mov, .imm o => .movImm c s rn rd o
  | .mov, .shiftImm o => .movShImm c s rn rd o
  | .mov, .shiftReg o => .movShReg c s rn rd o
  | .bic, .imm o => .bicImm c s rn rd o
  | .bic, .shiftImm o => .bicShImm c s rn rd o
  | .bic, .shiftReg o => .bicShReg c s rn rd o
  | .mvn, .imm o => .mvnImm c s rn rd o
  | .mvn, .shiftImm o => .mvnShImm c s rn rd o
  | .mvn, .shiftReg o => .mvnShReg c s rn rd o

/-- The S bit of `dataInstr`: as given, and 1 for a compare opcode (42_data_processing.md R176). -/
def sBit (op : Opcode) (s : Bool) : Bool := s || compares op

/-- The single data transfer of given fields: a T form when P = 0 and W = 1, a byte form when B = 1
(44_single_data_transfer.md R217 to R226). -/
def singleInstr (c : Cond) (t : SingleTransfer) : Instr :=
  match !t.p && t.w, t.b, t.l with
  | true, false, true => .ldrt c t.u t.rn t.rd t.off
  | true, false, false => .strt c t.u t.rn t.rd t.off
  | true, true, true => .ldrbt c t.u t.rn t.rd t.off
  | true, true, false => .strbt c t.u t.rn t.rd t.off
  | false, false, true => .ldr c t.p t.u t.w t.rn t.rd t.off
  | false, false, false => .str c t.p t.u t.w t.rn t.rd t.off
  | false, true, true => .ldrb c t.p t.u t.w t.rn t.rd t.off
  | false, true, false => .strb c t.p t.u t.w t.rn t.rd t.off

/-- The block data transfer of given fields (45_block_data_transfer.md R240 to R247). -/
def blockInstr (c : Cond) (t : BlockTransfer) : Instr :=
  match t.l, t.u, t.p with
  | true, true, false => .ldmia c t.sb t.w t.rn t.list
  | true, true, true => .ldmib c t.sb t.w t.rn t.list
  | true, false, false => .ldmda c t.sb t.w t.rn t.list
  | true, false, true => .ldmdb c t.sb t.w t.rn t.list
  | false, true, false => .stmia c t.sb t.w t.rn t.list
  | false, true, true => .stmib c t.sb t.w t.rn t.list
  | false, false, false => .stmda c t.sb t.w t.rn t.list
  | false, false, true => .stmdb c t.sb t.w t.rn t.list

/-! ## What stays as it was -/

/-- The SPSRs, both slots, the halt record, the fault policy and the counter of free values are as they
were. -/
def RestKept (s t : State) : Prop :=
  t.spsr = s.spsr ∧ t.fetched = s.fetched ∧ t.decoded = s.decoded ∧ t.halted = s.halted
    ∧ t.policy = s.policy ∧ t.draws = s.draws

/-- Every physical register but the listed ones is as it was. -/
def RegsKeptBut (ps : List PhysReg) (s t : State) : Prop :=
  ∀ p : PhysReg, p ∉ ps → t.regs.get p = s.regs.get p

/-- No access was made: the bus, with all of memory, and the trace are as they were. -/
def BusKept (s t : State) : Prop := t.bus = s.bus ∧ t.busLog = s.busLog

/-- The mapping of the bus is as it was: only what plain memory holds and what devices have been asked may
differ. -/
def MappingKept (b b' : Bus) : Prop := b' = { b with mem := b'.mem, requests := b'.requests }

/-- `n` is the address of one of the four bytes of the word the bus takes the address `a` to mean. -/
def ByteOfWord (b : Bus) (a : Word) (n : Nat) : Prop :=
  ∃ t, b.target a = some t ∧ ∃ k < 4, n = byteAddress t k

/-- How many registers below `i` a list selects (45_block_data_transfer.md R231). -/
def listRank (list : BitVec 16) (i : Nat) : Nat := ((List.range i).filter fun j => list.getLsbD j).length

/-- The address of register `i` of a block transfer: the lowest-numbered register at the start address,
each further one 4 higher (45_block_data_transfer.md R232, R233). -/
def BlockTransfer.addressOf (t : BlockTransfer) (s : State) (i : Reg) : Word :=
  t.start s + BitVec.ofNat 32 (4 * listRank t.list i.toNat)

/-- The registers of a block transfer that are visited before register `i`. -/
def BlockTransfer.before (t : BlockTransfer) (i : Reg) : List Reg := t.registers.filter (· < i)

/-- The bus after the access of register `i` in a block transfer that starts in `s`. -/
def BlockTransfer.access (t : BlockTransfer) (s : State) (b : Bus) (i : Reg) : Bus :=
  if t.l then b.afterRead (t.addressOf s i) else b.afterWrite (t.addressOf s i) (s.getReg i)

/-- The bus as the access of register `i` finds it: after the accesses of the lower listed registers
(45_block_data_transfer.md R233, 20_memory.md R74). -/
def BlockTransfer.busAt (t : BlockTransfer) (s : State) (i : Reg) : Bus := (t.before i).foldl (t.access s) s.bus

/-- The bus after all accesses of a block transfer. -/
def BlockTransfer.busAfter (t : BlockTransfer) (s : State) : Bus := t.registers.foldl (t.access s) s.bus

/-- The bus answers the access of register `i` with Fault. -/
def BlockTransfer.faultsAt (t : BlockTransfer) (s : State) (i : Reg) : Bool :=
  if t.l then ((t.busAt s i).read (t.addressOf s i)).isNone
  else !(t.busAt s i).accepts (t.addressOf s i) (s.getReg i)

/-- The access of register `i` as the trace records it (20_memory.md R79). -/
def BlockTransfer.event (t : BlockTransfer) (s : State) (i : Reg) : BusEvent :=
  if t.l then .read (t.addressOf s i) ((t.busAt s i).read (t.addressOf s i))
  else .write (t.addressOf s i) (s.getReg i) ((t.busAt s i).accepts (t.addressOf s i) (s.getReg i))

/-! ## The invariant -/

/-- Q, RES, I, F and T are 0 (10_state.md R31). -/
def Cpsr.storageClear (p : Cpsr) : Prop :=
  p.q = false ∧ p.res = 0 ∧ p.i = false ∧ p.f = false ∧ p.t = false

/-- An SPSR slot of mode `m` holds 0, or a CPSR word whose mode field is the tag of `m` and whose bits
27:5 are 0 (10_state.md R32). -/
def spsrShape (m : Mode) (w : Word) : Prop :=
  w = 0 ∨ (w.extractLsb' 5 23 = 0 ∧ w.extractLsb' 0 5 = m.tag)

/-- What every state between steps meets (10_state.md R43, with the model's own fields). -/
structure State.Inv (s : State) : Prop where
  /-- memory is in canonical form -/
  memory : s.bus.mem.wf = true
  /-- R43 (b) -/
  storage : s.cpsr.storageClear
  /-- R43 (d) -/
  slots : ∀ m w, s.spsr.slot m = some w → spsrShape m w
  /-- R43 (c) -/
  pipeline : s.fetched = .none → s.decoded = .none
  /-- a decoded instruction came from a word -/
  decodedWf : ∀ i, s.decoded = .instr i → i.wf = true
  /-- the step-local flag is false between steps (log 8) -/
  flag : s.branched = false

end Sys2Proof.Machine
end

