-- ==== Sys2Proof/Certificates/Slice0/Obligations.lean ====
section
/-! DEFINITION. The statements about the machine. Each docstring names the rules of spec/ it formalises and, where a
clause rests on a choice of the spec's own or of the model, the log entry. -/

section

open Sys2Proof Sys2Proof.Machine

/-- Decode and encode agree for every well-formed instruction: no field of any format is dropped or moved
(30_encoding.md R84, the formats R86 to R106, R122; positions: log 13). -/
def Obligations.EncodingDecodesBack : Prop :=
  ∀ i : Instr, i.wf = true → decode (encode i) = i

/-- Every word decodes to a well-formed instruction that keeps the raw word and the condition of bits 31:28
(30_encoding.md R80, R81, R83, R84; log 11, 13). -/
def Obligations.DecodingEncodesBack : Prop :=
  ∀ w : Word, (decode w).wf = true ∧ encode (decode w) = w ∧
    (decode w).cond = Cond.ofCode (w.extractLsb' 28 4)

/-- The 93-row decoder refines the twenty-row priority table of 30_encoding.md R84, written out here from
the spec (R84, R107, R122; its literals are general knowledge: log 13). -/
def Obligations.ClassIsFirstMatchOfPriorityTable : Prop :=
  ∀ w : Word,
    (decode w).cls =
      (([(0x0FFFFFF0, 0x012FFF10, .branchExchange), (0x0FC000F0, 0x00000090, .multiply),
          (0x0F8000F0, 0x00800090, .multiply), (0x0E0000F0, 0x00000090, .undefined),
          (0x0E000090, 0x00000090, .loadStoreExtension), (0x0FBF0FFF, 0x010F0000, .controlRegister),
          (0x0FB0FFF0, 0x0120F000, .controlRegister), (0x0FB0F000, 0x0320F000, .controlImmediate),
          (0x0D900000, 0x01000000, .undefined), (0x0E000000, 0x02000000, .dataProcess),
          (0x0E000010, 0x00000000, .dataProcess), (0x0E000090, 0x00000010, .dataProcess),
          (0x0E000010, 0x06000010, .undefined), (0x0C000000, 0x04000000, .singleDataTransfer),
          (0x0E000000, 0x08000000, .blockDataTransfer), (0x0E000000, 0x0A000000, .branch),
          (0x0E000000, 0x0C000000, .coProcessorDataTransfer),
          (0x0F000010, 0x0E000000, .coProcessorDataOperation),
          (0x0F000010, 0x0E000010, .coProcessorRegisterTransfer),
          (0x0F000000, 0x0F000000, .softwareInterrupt)] : List (Word × Word × InstrClass)).find?
        fun row => w &&& row.1 == row.2.1).elim .undefined fun row => row.2.2

/-- The round trip of 30_encoding.md R120, with the word assembled from its fields as that rule writes it
(R96 to R98, R120; positions: log 13). -/
def Obligations.DataProcessFieldsSurvive : Prop :=
  ∀ (c : Cond) (i : Bool) (op : Opcode) (s : Bool) (rn rd : Reg) (operand : BitVec 12),
    ¬ (compares op = true ∧ s = false) →
    ¬ (i = false ∧ operand.getLsbD 7 = true ∧ operand.getLsbD 4 = true) →
    decode (c.code.setWidth 32 <<< 28 ||| (BitVec.ofBool i).setWidth 32 <<< 25
        ||| op.code.setWidth 32 <<< 21 ||| (BitVec.ofBool s).setWidth 32 <<< 20
        ||| rn.setWidth 32 <<< 16 ||| rd.setWidth 32 <<< 12 ||| operand.setWidth 32) =
      dataInstr op c s rn rd
        (if i then .imm ⟨operand.extractLsb' 8 4, operand.extractLsb' 0 8⟩
        else if operand.getLsbD 4 then
          .shiftReg ⟨operand.extractLsb' 8 4, .ofCode (operand.extractLsb' 5 2), operand.extractLsb' 0 4⟩
        else
          .shiftImm ⟨operand.extractLsb' 7 5, .ofCode (operand.extractLsb' 5 2),
            operand.extractLsb' 0 4⟩)

/-- The worked decode of 30_encoding.md R121. -/
def Obligations.WorkedDecodeOfMov : Prop :=
  (∀ row ∈ ([(0x0FFFFFF0, 0x012FFF10), (0x0FC000F0, 0x00000090), (0x0F8000F0, 0x00800090),
        (0x0E0000F0, 0x00000090), (0x0E000090, 0x00000090), (0x0FBF0FFF, 0x010F0000),
        (0x0FB0FFF0, 0x0120F000), (0x0FB0F000, 0x0320F000), (0x0D900000, 0x01000000)] : List (Word × Word)),
      (0xE3A00001 : Word) &&& row.1 ≠ row.2) ∧
    (0xE3A00001 : Word) &&& 0x0E000000 = 0x02000000 ∧
    decode 0xE3A00001 = .movImm .al false 0 0 ⟨0, 1⟩ ∧
    (decode 0xE3A00001).cls = .dataProcess ∧
    ∀ carry, (immediateOperand ⟨0, 1⟩ carry).value = 1

/-- Words of the examples of 42_data_processing.md R178, R182, R191, 43_branch.md R201, R202,
44_single_data_transfer.md R217, R219, R221, R223, 45_block_data_transfer.md R240, R247,
46_unexecuted_classes.md R273, R274, R276 and of 95_test_vectors.md parts 3, 4 and 10 (positions: log 13). -/
def Obligations.SampleWordsDecode : Prop :=
  (decode 0xE0111082 = .andShImm .al true 1 1 ⟨1, .lsl, 2⟩ ∧
      decode 0xE0910002 = .addShImm .al true 1 0 ⟨0, .lsl, 2⟩ ∧
      decode 0xE1B00021 = .movShImm .al true 0 0 ⟨0, .lsr, 1⟩ ∧
      decode 0xE0810312 = .addShReg .al false 1 0 ⟨3, .lsl, 2⟩ ∧
      decode 0xE3E004FF = .mvnImm .al false 0 0 ⟨4, 0xFF⟩ ∧
      decode 0xEAFFFFFE = .b .al 0xFFFFFE ∧
      decode 0xEB000000 = .bl .al 0) ∧
    (decode 0xE7910062 = .ldr .al true true false 1 0 (.reg ⟨0, .ror, 2⟩) ∧
      decode 0xE6010002 = .str .al false false false 1 0 (.reg ⟨0, .lsl, 2⟩) ∧
      decode 0xE5D10000 = .ldrb .al true true false 1 0 (.imm 0) ∧
      decode 0xE4B10004 = .ldrt .al true 1 0 (.imm 4) ∧
      decode 0xE8B10025 = .ldmia .al false true 1 0x0025 ∧
      decode 0xE92D4010 = .stmdb .al false true 13 0x4010) ∧
    (decode 0xE12FFF1E = .bx .al 14 ∧
      decode 0xE0000291 = .mul .al false 0 0 2 1 ∧
      decode 0xE0303291 = .mla .al true 0 3 2 1 ∧
      decode 0xE0810392 = .umull .al ⟨false, 1, 0, 3, 2⟩ ∧
      decode 0xE0E10392 = .smlal .al ⟨false, 1, 0, 3, 2⟩ ∧
      decode 0xE10F0000 = .mrs .al false 0 ∧
      decode 0xE169F000 = .msrReg .al true 9 0 ∧
      decode 0xE328F20F = .msrImm .al false 8 ⟨2, 0x0F⟩) ∧
    (decode 0xE1C100B0 = .strh .al ⟨true, true, true, false, 1, 0, 0, 0⟩ ∧
      decode 0xE19100B2 = .ldrh .al ⟨true, true, false, false, 1, 0, 0, 2⟩ ∧
      decode 0xE1D100D0 = .ldrsb .al ⟨true, true, true, false, 1, 0, 0, 0⟩ ∧
      decode 0xE1D100F0 = .ldrsh .al ⟨true, true, true, false, 1, 0, 0, 0⟩ ∧
      decode 0xED910000 = .ldc .al ⟨true, true, false, false, 1, 0, 0, 0⟩ ∧
      decode 0xEC810000 = .stc .al ⟨false, true, false, false, 1, 0, 0, 0⟩ ∧
      decode 0xEE000000 = .cdp .al 0 0 0 0 0 0 ∧
      decode 0xEE010F10 = .mcr .al ⟨0, 1, 0, 15, 0, 0⟩ ∧
      decode 0xEE110F10 = .mrc .al ⟨0, 1, 0, 15, 0, 0⟩ ∧
      decode 0x0F000000 = .swi .eq 0) ∧
    decode 0xE1010092 = .swp 0xE1010092 ∧
    decode 0xE1410092 = .swpb 0xE1410092 ∧
    decode 0xE1031092 = .swp 0xE1031092 ∧
    decode 0xE0400291 = .undRow4 0xE0400291 ∧
    decode 0xE1000000 = .undRow9 0xE1000000 ∧
    decode 0xE7F000F0 = .undRow13 0xE7F000F0

/-- The banking map and the register read (10_state.md R23, R24). -/
def Obligations.RegisterReadFollowsBanking : Prop :=
  ∀ s : State,
    let logical (n : Nat) : Word := s.getReg (BitVec.ofNat 4 n)
    (s.cpsr.mode = .usr ∨ s.cpsr.mode = .sys → ∀ k : Fin 16, logical k = s.regs.r[k]) ∧
    (s.cpsr.mode = .fiq → (∀ k : Fin 16, k < 8 ∨ k = 15 → logical k = s.regs.r[k]) ∧
      ∀ k : Fin 7, logical (8 + k) = s.regs.fiq[k]) ∧
    (s.cpsr.mode ∈ [Mode.irq, .svc, .abt, .und] →
      ∀ k : Fin 16, k < 13 ∨ k = 15 → logical k = s.regs.r[k]) ∧
    (∀ k : Fin 2, (s.cpsr.mode = .irq → logical (13 + k) = s.regs.irq[k]) ∧
      (s.cpsr.mode = .svc → logical (13 + k) = s.regs.svc[k]) ∧
      (s.cpsr.mode = .abt → logical (13 + k) = s.regs.abt[k]) ∧
      (s.cpsr.mode = .und → logical (13 + k) = s.regs.und[k])) ∧
    ∀ i, s.hostReadReg i = s.getReg i

/-- The register write (10_state.md R25). -/
def Obligations.RegisterWriteReachesOnePhysicalRegister : Prop :=
  ∀ (s : State) (i : Reg) (v : Word),
    (s.writeReg i v).regs.get (phys s.cpsr.mode i) = v ∧
    RegsKeptBut [phys s.cpsr.mode i] s (s.writeReg i v) ∧
    s.writeReg i v = { s with regs := (s.writeReg i v).regs, branched := decide (i = 15) || s.branched } ∧
    s.hostWriteReg i v = { s with regs := (s.writeReg i v).regs }

/-- The banking property of 10_state.md R46 (from R23). -/
def Obligations.BankedRegistersStaySeparate : Prop :=
  ∀ (s : State) (a b : Word) (m m' : Mode),
    (((s.setMode .fiq).hostWriteReg 13 a).setMode .svc).hostReadReg 13 = (s.setMode .svc).hostReadReg 13 ∧
    (((s.setMode .svc).hostWriteReg 13 a).setMode .fiq).hostReadReg 13 = (s.setMode .fiq).hostReadReg 13 ∧
    (((s.setMode m).hostWriteReg 15 b).setMode m').hostReadReg 15 = b

/-- A change of mode moves no data (10_state.md R27, R36; the tags are general knowledge: log 13). -/
def Obligations.ModeChangeMovesNoData : Prop :=
  ∀ (s : State) (m : Mode),
    s.setMode m = { s with cpsr := { s.cpsr with mode := m } } ∧
    (∀ i, (s.setMode m).hostReadReg i = s.regs.get (phys m i)) ∧
    (s.setMode m).readCpsr.extractLsb' 0 5 = m.tag ∧
    (s.setMode m).readCpsr.extractLsb' 5 27 = s.readCpsr.extractLsb' 5 27

/-- The CPSR as a word (10_state.md R21, R29, R30, R39; positions and tags are general knowledge: log 13). -/
def Obligations.CpsrWordLayout : Prop :=
  ∀ s : State,
    let p := s.cpsr
    let tag : Word := match p.mode with
      | .usr => 0x10 | .fiq => 0x11 | .irq => 0x12 | .svc => 0x13 | .abt => 0x17 | .und => 0x1B | .sys => 0x1F
    s.readCpsr =
      (BitVec.ofBool p.n).setWidth 32 <<< 31 ||| (BitVec.ofBool p.z).setWidth 32 <<< 30
        ||| (BitVec.ofBool p.c).setWidth 32 <<< 29 ||| (BitVec.ofBool p.v).setWidth 32 <<< 28
        ||| (BitVec.ofBool p.q).setWidth 32 <<< 27 ||| p.res.setWidth 32 <<< 8
        ||| (BitVec.ofBool p.i).setWidth 32 <<< 7 ||| (BitVec.ofBool p.f).setWidth 32 <<< 6
        ||| (BitVec.ofBool p.t).setWidth 32 <<< 5 ||| tag

/-- StoreSPSR (10_state.md R37). -/
def Obligations.StoreSpsrWritesTheActiveSlotOnly : Prop :=
  ∀ s : State,
    ((s.cpsr.mode = .usr ∨ s.cpsr.mode = .sys) → s.storeSpsr = s) ∧
    (s.cpsr.mode ≠ .usr → s.cpsr.mode ≠ .sys →
      s.storeSpsr.spsr.slot s.cpsr.mode = some s.cpsr.word ∧
      (∀ m, m ≠ s.cpsr.mode → s.storeSpsr.spsr.slot m = s.spsr.slot m) ∧
      s.storeSpsr = { s with spsr := s.storeSpsr.spsr })

/-- New and the first step (10_state.md R34, R42, 70_reset_and_hazards.md R312; log 3, 7).
That the first read leaves the bus unchanged unless address 0 is a device's is no rule
of the spec (20_memory.md R70 leaves a read's side effects to the bus) but the model's choice: log 1, 20. -/
def Obligations.NewIsZeroedAndFetchesAtZero : Prop :=
  ∀ (bus : Bus) (policy : BusFaultPolicy),
    let s := State.new bus policy
    (∀ p, s.regs.get p = 0) ∧ s.readCpsr = 0x00000013 ∧ (∀ m w, s.spsr.slot m = some w → w = 0) ∧
    s.fetched = .none ∧ s.decoded = .none ∧ s.halted = none ∧ s.bus = bus ∧ s.policy = policy ∧
    State.reset = State.new State.reset.bus State.reset.policy ∧
    ∃ t, step s = .next t ∧ t.busLog = [.read 0 (bus.read 0)] ∧ t.pc = 4 ∧
      RegsKeptBut [.r 15] s t ∧ t.cpsr = s.cpsr ∧ t.spsr = s.spsr ∧ t.halted = none ∧ t.decoded = .none ∧
      t.bus = bus.afterRead 0 ∧
      (bus.device 0 = false → t.bus = bus) ∧
      t.fetched = (match bus.read 0 with
        | some w => .word w
        | none => .fetchFault 0)

/-- The operation Reset (70_reset_and_hazards.md R301, R303; 10_state.md R42). The SPSRs zeroed and the free word left in
one r14 are the spec's decision D14 (log 13, 14; the free word: log 6); the trace and the policy kept are the model's
reading (log 14, DEDUCED). -/
def Obligations.ResetOperationZeroesAllButOneLinkRegister : Prop :=
  ∀ s : State,
    s.hostReset.regs.get (phys s.cpsr.mode 14) = s.freeWord ∧
    (∀ p, p ≠ phys s.cpsr.mode 14 → s.hostReset.regs.get p = 0) ∧
    s.hostReset.readCpsr = 0x00000013 ∧ (∀ m w, s.hostReset.spsr.slot m = some w → w = 0) ∧
    s.hostReset.fetched = .none ∧ s.hostReset.decoded = .none ∧ s.hostReset.halted = none ∧
    s.hostReset.bus = s.bus ∧ s.hostReset.busLog = s.busLog ∧ s.hostReset.policy = s.policy

/-- The condition table, checked against the 256 entries the spec lists in 95_test_vectors.md part 2
(40_step_pipeline_condition.md R137, R146; fourteen entries are general knowledge: log 13). Bit k of a
row is the entry of column k. -/
def Obligations.ConditionTableMatchesTruthTable : Prop :=
  ∀ (p : Cpsr),
    let column := 8 * p.n.toNat + 4 * p.z.toNat + 2 * p.c.toNat + p.v.toNat
    conditionPasses .eq p = (0xF0F0 : BitVec 16).getLsbD column ∧
    conditionPasses .ne p = (0x0F0F : BitVec 16).getLsbD column ∧
    conditionPasses .cs p = (0xCCCC : BitVec 16).getLsbD column ∧
    conditionPasses .cc p = (0x3333 : BitVec 16).getLsbD column ∧
    conditionPasses .mi p = (0xFF00 : BitVec 16).getLsbD column ∧
    conditionPasses .pl p = (0x00FF : BitVec 16).getLsbD column ∧
    conditionPasses .vs p = (0xAAAA : BitVec 16).getLsbD column ∧
    conditionPasses .vc p = (0x5555 : BitVec 16).getLsbD column ∧
    conditionPasses .hi p = (0x0C0C : BitVec 16).getLsbD column ∧
    conditionPasses .ls p = (0xF3F3 : BitVec 16).getLsbD column ∧
    conditionPasses .ge p = (0xAA55 : BitVec 16).getLsbD column ∧
    conditionPasses .lt p = (0x55AA : BitVec 16).getLsbD column ∧
    conditionPasses .gt p = (0x0A05 : BitVec 16).getLsbD column ∧
    conditionPasses .le p = (0xF5FA : BitVec 16).getLsbD column ∧
    conditionPasses .al p = true ∧ conditionPasses .nv p = false

/-- A failed condition is a no-op for every class (40_step_pipeline_condition.md R136, R138,
46_unexecuted_classes.md R276; decision D27: log 13). -/
def Obligations.FailedConditionIsNoOp : Prop :=
  ∀ (i : Instr) (s : State), conditionPasses i.cond s.cpsr = false → exec i s = .next s

/-- ImmediateOperand, bit by bit (41_shifter_operand.md R152). -/
def Obligations.ImmediateOperandRotates : Prop :=
  ∀ (o : ImmOperand) (carryIn : Bool),
    (∀ k < 32, (immediateOperand o carryIn).value.getLsbD k =
      o.imm8.getLsbD ((k + 2 * o.rotate.toNat) % 32)) ∧
    (immediateOperand o carryIn).carry =
      if o.rotate = 0 then carryIn else (immediateOperand o carryIn).value.getLsbD 31

/-- LSL, ROR and RRX by an immediate amount (41_shifter_operand.md R155, R158, R160). -/
def Obligations.LeftShiftAndRotateByImmediate : Prop :=
  ∀ (v : Word) (n : BitVec 5) (carryIn : Bool),
    (n = 0 → shiftByImmediate v .lsl n carryIn = ⟨v, carryIn⟩) ∧
    (n ≠ 0 → (shiftByImmediate v .lsl n carryIn).value.toNat = v.toNat * 2 ^ n.toNat % 2 ^ 32 ∧
      (shiftByImmediate v .lsl n carryIn).carry = v.getLsbD (32 - n.toNat)) ∧
    (n ≠ 0 → (shiftByImmediate v .ror n carryIn).value = v >>> n.toNat ||| v <<< (32 - n.toNat) ∧
      (shiftByImmediate v .ror n carryIn).carry = v.getLsbD (n.toNat - 1) ∧
      (shiftByImmediate v .ror n carryIn).carry = (shiftByImmediate v .ror n carryIn).value.getLsbD 31) ∧
    (n = 0 → (∀ k < 31, (shiftByImmediate v .ror n carryIn).value.getLsbD k = v.getLsbD (k + 1)) ∧
      (shiftByImmediate v .ror n carryIn).value.getLsbD 31 = carryIn ∧
      (shiftByImmediate v .ror n carryIn).carry = v.getLsbD 0)

/-- LSR and ASR by an immediate amount (41_shifter_operand.md R156, R157; decision D24: log 13). -/
def Obligations.RightShiftByImmediate : Prop :=
  ∀ (v : Word) (n : BitVec 5) (carryIn : Bool),
    (n = 0 → shiftByImmediate v .lsr n carryIn = ⟨0, v.getLsbD 31⟩ ∧
      (shiftByImmediate v .asr n carryIn).value.toInt = (if v.getLsbD 31 then -1 else 0) ∧
      (shiftByImmediate v .asr n carryIn).carry = v.getLsbD 31) ∧
    (n ≠ 0 → (shiftByImmediate v .lsr n carryIn).value.toNat = v.toNat / 2 ^ n.toNat ∧
      (shiftByImmediate v .lsr n carryIn).carry = v.getLsbD (n.toNat - 1) ∧
      (shiftByImmediate v .asr n carryIn).value.toInt = v.toInt.fdiv (2 ^ n.toNat) ∧
      (shiftByImmediate v .asr n carryIn).carry = v.getLsbD (n.toNat - 1))

/-- The register-shift table but for ROR above 32 (41_shifter_operand.md R161 to R164). -/
def Obligations.RegisterShiftSaturates : Prop :=
  ∀ (rs : Reg) (type : ShiftType) (rm : Reg) (s : State),
    let n := (s.getReg rs).toNat % 256
    let v := s.getReg rm
    let fill : Word := if v.getLsbD 31 then 0xFFFFFFFF else 0
    (n = 0 → operand2 (.shiftReg ⟨rs, type, rm⟩) s = ⟨v, s.cpsr.c⟩) ∧
    (1 ≤ n ∧ n ≤ 31 → operand2 (.shiftReg ⟨rs, type, rm⟩) s =
      operand2 (.shiftImm ⟨BitVec.ofNat 5 n, type, rm⟩) s) ∧
    (n = 32 → operand2 (.shiftReg ⟨rs, .lsl, rm⟩) s = ⟨0, v.getLsbD 0⟩ ∧
      operand2 (.shiftReg ⟨rs, .lsr, rm⟩) s = ⟨0, v.getLsbD 31⟩ ∧
      operand2 (.shiftReg ⟨rs, .asr, rm⟩) s = ⟨fill, v.getLsbD 31⟩ ∧
      operand2 (.shiftReg ⟨rs, .ror, rm⟩) s = ⟨v, v.getLsbD 31⟩) ∧
    (33 ≤ n → operand2 (.shiftReg ⟨rs, .lsl, rm⟩) s = ⟨0, false⟩ ∧
      operand2 (.shiftReg ⟨rs, .lsr, rm⟩) s = ⟨0, false⟩ ∧
      operand2 (.shiftReg ⟨rs, .asr, rm⟩) s = ⟨fill, v.getLsbD 31⟩)

/-- ROR by a register amount of 32 or more (41_shifter_operand.md R165, R166; decision D24: log 13). -/
def Obligations.RegisterRotateIsModulo32 : Prop :=
  ∀ (rs rm : Reg) (s : State),
    let n := (s.getReg rs).toNat % 256
    let v := s.getReg rm
    32 ≤ n →
      (n % 32 = 0 → operand2 (.shiftReg ⟨rs, .ror, rm⟩) s = ⟨v, v.getLsbD 31⟩) ∧
      (n % 32 ≠ 0 → operand2 (.shiftReg ⟨rs, .ror, rm⟩) s =
        ⟨v >>> (n % 32) ||| v <<< (32 - n % 32), v.getLsbD (n % 32 - 1)⟩)

/-- The additions of 42_data_processing.md R172, R174 and 00_scope.md R12 (decision D6: log 13). -/
def Obligations.AdditionResultAndFlags : Prop :=
  ∀ (op : Opcode) (a : Word) (b : ShifterOut) (carryIn vOld : Bool),
    (op = .add ∨ op = .cmn ∨ op = .adc) →
    let third := if op = .adc then carryIn.toNat else 0
    let out := aluResult op a b carryIn vOld
    out.value.toNat = (a.toNat + b.value.toNat + third) % 2 ^ 32 ∧
    (out.carry = true ↔ 2 ^ 32 ≤ a.toNat + b.value.toNat + third) ∧
    (out.overflow = true ↔
      a.toInt + b.value.toInt + third < -2 ^ 31 ∨ 2 ^ 31 ≤ a.toInt + b.value.toInt + third) ∧
    (op ≠ .adc → (out.overflow = true ↔
      a.getLsbD 31 = b.value.getLsbD 31 ∧ out.value.getLsbD 31 ≠ a.getLsbD 31))

/-- The subtractions of 42_data_processing.md R172, R174 (decision D6: log 13). -/
def Obligations.SubtractionResultAndFlags : Prop :=
  ∀ (op : Opcode) (a : Word) (b : ShifterOut) (carryIn vOld : Bool),
    (op = .sub ∨ op = .cmp ∨ op = .rsb ∨ op = .sbc ∨ op = .rsc) →
    let reversed := decide (op = .rsb ∨ op = .rsc)
    let x := if reversed then b.value else a
    let y := if reversed then a else b.value
    let borrow := if op = .sbc ∨ op = .rsc then 1 - carryIn.toNat else 0
    let out := aluResult op a b carryIn vOld
    out.value = x - y - BitVec.ofNat 32 borrow ∧
    (out.carry = true ↔ y.toNat + borrow ≤ x.toNat) ∧
    (out.overflow = true ↔
      x.toInt - y.toInt - borrow < -2 ^ 31 ∨ 2 ^ 31 ≤ x.toInt - y.toInt - borrow) ∧
    (op = .sub ∨ op = .cmp → (out.overflow = true ↔
      a.getLsbD 31 ≠ b.value.getLsbD 31 ∧ out.value.getLsbD 31 ≠ a.getLsbD 31))

/-- The logical opcodes (42_data_processing.md R172, R173; decision D7: log 13). -/
def Obligations.LogicalResultAndFlags : Prop :=
  ∀ (a : Word) (b : ShifterOut) (carryIn vOld : Bool),
    (∀ k < 32,
      (aluResult .and a b carryIn vOld).value.getLsbD k = (a.getLsbD k && b.value.getLsbD k) ∧
      (aluResult .tst a b carryIn vOld).value.getLsbD k = (a.getLsbD k && b.value.getLsbD k) ∧
      (aluResult .eor a b carryIn vOld).value.getLsbD k = (a.getLsbD k ^^ b.value.getLsbD k) ∧
      (aluResult .teq a b carryIn vOld).value.getLsbD k = (a.getLsbD k ^^ b.value.getLsbD k) ∧
      (aluResult .orr a b carryIn vOld).value.getLsbD k = (a.getLsbD k || b.value.getLsbD k) ∧
      (aluResult .mov a b carryIn vOld).value.getLsbD k = b.value.getLsbD k ∧
      (aluResult .bic a b carryIn vOld).value.getLsbD k = (a.getLsbD k && !b.value.getLsbD k) ∧
      (aluResult .mvn a b carryIn vOld).value.getLsbD k = !b.value.getLsbD k) ∧
    ∀ op ∈ [Opcode.and, .eor, .tst, .teq, .orr, .mov, .bic, .mvn],
      (aluResult op a b carryIn vOld).carry = b.carry ∧ (aluResult op a b carryIn vOld).overflow = vOld

/-- The source's two boundary examples (42_data_processing.md R195). -/
def Obligations.SourceBoundaryExamples : Prop :=
  ∀ s : State,
    (s.getReg 1 = 0x7FFFFFFF → ∃ t, exec (.addImm .al true 1 0 ⟨0, 1⟩) s = .next t ∧
      t.getReg 0 = 0x80000000 ∧ t.cpsr = { s.cpsr with n := true, z := false, c := false, v := true }) ∧
    (s.getReg 1 = 0 → ∃ t, exec (.subImm .al true 1 0 ⟨0, 1⟩) s = .next t ∧
      t.getReg 0 = 0xFFFFFFFF ∧ t.cpsr = { s.cpsr with n := true, z := false, c := false, v := false })

/-- When flags are written (42_data_processing.md R176), with the restore of case (b) of R177 and 10_state.md R41
(decision D8) and C and V of the logical opcodes (R173, decision D7; log 13). -/
def Obligations.FlagsWrittenOnlyWithSAndNotForThePc : Prop :=
  (∀ (op : Opcode) (c : Cond) (sf : Bool) (rn rd : Reg) (o : Operand2) (s : State),
      conditionPasses c s.cpsr = true →
      let out := dataProcessOut op rn o s
      ∃ t, exec (dataInstr op c sf rn rd o) s = .next t ∧
        (sBit op sf = false → t.cpsr = s.cpsr) ∧
        (sBit op sf = true → rd ≠ 15 →
          t.cpsr = { s.cpsr with n := out.value.getLsbD 31, z := decide (out.value = 0), c := out.carry, v := out.overflow } ∧
          (op ∈ [Opcode.and, .eor, .tst, .teq, .orr, .mov, .bic, .mvn] → t.cpsr.v = s.cpsr.v)) ∧
        (rd = 15 → t.cpsr ≠ s.cpsr → compares op = false ∧ sf = true ∧ t.cpsr.mode = s.cpsr.mode ∧
          ∃ w, s.spsr.slot s.cpsr.mode = some w ∧ t.cpsr = s.cpsr.restore w)) ∧
    ∀ w : Word, w.extractLsb' 23 2 = 0b10 → w.getLsbD 20 = false → (decode w).cls ≠ .dataProcess

/-- The frame of the writing opcodes (42_data_processing.md R170, R171, R175, R176, R178 to R185,
R190 to R193). -/
def Obligations.DataProcessWritesItsDestination : Prop :=
  ∀ (op : Opcode) (c : Cond) (sf : Bool) (rn rd : Reg) (o : Operand2) (s : State),
    conditionPasses c s.cpsr = true → compares op = false → rd ≠ 15 →
    let out := aluResult op (s.getReg rn) (operand2 o s) s.cpsr.c s.cpsr.v
    ∃ t, exec (dataInstr op c sf rn rd o) s = .next t ∧
      t.getReg rd = out.value ∧ RegsKeptBut [phys s.cpsr.mode rd] s t ∧
      t.cpsr = (if sf then
          { s.cpsr with n := out.value.getLsbD 31, z := decide (out.value = 0), c := out.carry, v := out.overflow }
        else s.cpsr) ∧
      t.branched = s.branched ∧ RestKept s t ∧ BusKept s t

/-- The compare opcodes (42_data_processing.md R175, R176, R186 to R189). -/
def Obligations.CompareWritesOnlyFlags : Prop :=
  ∀ (op : Opcode) (c : Cond) (sf : Bool) (rn rd : Reg) (o : Operand2) (s : State),
    conditionPasses c s.cpsr = true → compares op = true → rd ≠ 15 →
    let out := aluResult op (s.getReg rn) (operand2 o s) s.cpsr.c s.cpsr.v
    exec (dataInstr op c sf rn rd o) s = .next { s with cpsr := { s.cpsr with
      n := out.value.getLsbD 31, z := decide (out.value = 0), c := out.carry, v := out.overflow } }

/-- The program counter as destination, case (a) (42_data_processing.md R177; decision D8: log 13). -/
def Obligations.DataProcessJumpWithoutS : Prop :=
  ∀ (op : Opcode) (c : Cond) (rn : Reg) (o : Operand2) (s : State),
    conditionPasses c s.cpsr = true → compares op = false →
    ∃ t, exec (dataInstr op c false rn 15 o) s = .next t ∧
      t.pc = (aluResult op (s.getReg rn) (operand2 o s) s.cpsr.c s.cpsr.v).value ∧
      RegsKeptBut [.r 15] s t ∧ t.cpsr = s.cpsr ∧ t.branched = true ∧ RestKept s t ∧ BusKept s t

/-- The program counter as destination, case (b), with RestoreFlags (42_data_processing.md R177,
10_state.md R41, 60_exceptions.md R290; decision D8: log 13). -/
def Obligations.DataProcessReturnRestoresFlags : Prop :=
  ∀ (op : Opcode) (c : Cond) (rn : Reg) (o : Operand2) (s : State) (w : Word),
    conditionPasses c s.cpsr = true → compares op = false → s.spsr.slot s.cpsr.mode = some w →
    ∃ t, exec (dataInstr op c true rn 15 o) s = .next t ∧
      t.pc = (aluResult op (s.getReg rn) (operand2 o s) s.cpsr.c s.cpsr.v).value ∧
      RegsKeptBut [.r 15] s t ∧
      t.cpsr = { s.cpsr with n := w.getLsbD 31, z := w.getLsbD 30, c := w.getLsbD 29, v := w.getLsbD 28, q := w.getLsbD 27, i := w.getLsbD 7, f := w.getLsbD 6, t := w.getLsbD 5 } ∧
      t.branched = true ∧ RestKept s t ∧ BusKept s t

/-- The program counter as destination, cases (c) and (d) (42_data_processing.md R177, 60_exceptions.md
R282; decisions D8, D22: log 13). -/
def Obligations.UnpredictableDataProcessHalts : Prop :=
  ∀ (op : Opcode) (c : Cond) (sf : Bool) (rn : Reg) (o : Operand2) (s : State),
    conditionPasses c s.cpsr = true →
    (compares op = true ∨ (sf = true ∧ (s.cpsr.mode = .usr ∨ s.cpsr.mode = .sys))) →
    exec (dataInstr op c sf rn 15 o) s =
      .next { s with halted := some (.unpredictableEncoding (encode (dataInstr op c sf rn 15 o))) }

/-- The branch offset (30_encoding.md R111). -/
def Obligations.BranchDisplacementIsFourTimesOffset : Prop :=
  ∀ offset24 : BitVec 24,
    (branchDisplacement offset24).toInt = 4 * offset24.toInt ∧
    -2 ^ 25 ≤ (branchDisplacement offset24).toInt ∧ (branchDisplacement offset24).toInt ≤ 2 ^ 25 - 4 ∧
    (branchDisplacement offset24).extractLsb' 0 2 = 0 ∧
    (branchDisplacement offset24).extractLsb' 2 24 = offset24 ∧
    ∀ k, 26 ≤ k → k < 32 → (branchDisplacement offset24).getLsbD k = offset24.getLsbD 23

/-- ExecBranch (43_branch.md R200): pc is the program counter as the instruction reads it. -/
def Obligations.BranchGoesToItsTarget : Prop :=
  ∀ (c : Cond) (offset24 : BitVec 24) (s : State),
    conditionPasses c s.cpsr = true →
    (∃ t, exec (.b c offset24) s = .next t ∧
      t.pc = BitVec.ofInt 32 (s.pc.toNat + 4 * offset24.toInt) ∧
      RegsKeptBut [.r 15] s t ∧ t.cpsr = s.cpsr ∧ t.branched = true ∧ RestKept s t ∧ BusKept s t) ∧
    ∃ t, exec (.bl c offset24) s = .next t ∧
      t.pc = BitVec.ofInt 32 (s.pc.toNat + 4 * offset24.toInt) ∧ t.getReg 14 = s.pc - 4 ∧
      RegsKeptBut [.r 15, phys s.cpsr.mode 14] s t ∧ t.cpsr = s.cpsr ∧ t.branched = true ∧
      RestKept s t ∧ BusKept s t

/-- No access, no fatal condition (43_branch.md R204). -/
def Obligations.BranchNeverFaults : Prop :=
  ∀ (i : Instr) (s : State), i.cls = .branch →
    ∃ t, exec i s = .next t ∧ t.halted = s.halted ∧ t.bus = s.bus ∧ t.busLog = s.busLog ∧
      (conditionPasses i.cond s.cpsr = false → t = s)

/-- The offsets (44_single_data_transfer.md R212, 41_shifter_operand.md R168, 30_encoding.md R115; bit 25 and R115:
general knowledge, log 13). -/
def Obligations.TransferOffsetIsUnsignedOrShifted : Prop :=
  (∀ s : State,
      (∀ imm12 : BitVec 12, (transferOffset (.imm imm12) s).toNat = imm12.toNat) ∧
      ∀ o : ShiftImmOperand, transferOffset (.reg o) s =
        (shiftByImmediate (s.regs.get (phys s.cpsr.mode o.rm)) o.type o.shiftImm s.cpsr.c).value) ∧
    (∀ f : ExtensionFields, f.immOffset.toNat = 16 * f.offHi.toNat + f.offLo.toNat ∧ f.immOffset.toNat ≤ 255) ∧
    ∀ f : CoTransferFields, f.offset.toNat = 4 * f.offset8.toNat ∧ f.offset.toNat ≤ 1020

/-- LDR and LDRT (44_single_data_transfer.md R210 to R214, R217, R218, R223, R229; D12, D17: log 13).
What memory and the rest of the bus hold afterwards is said of the model's bus: log 1, 16, 19, 20. -/
def Obligations.LoadWordCompletes : Prop :=
  ∀ (c : Cond) (t : SingleTransfer) (s : State) (v : Word),
    let offset := transferOffset t.off s
    let computed := if t.u then s.getReg t.rn + offset else s.getReg t.rn - offset
    let address := if t.p then computed else s.getReg t.rn
    let back := !t.p || t.w
    conditionPasses c s.cpsr = true → t.l = true → t.b = false →
    (back = true → t.rn ≠ t.rd ∧ t.rn ≠ 15) → s.bus.read address = some v →
    ∃ t', exec (singleInstr c t) s = .next t' ∧ t'.getReg t.rd = v ∧
      (back = true → t'.getReg t.rn = computed) ∧
      RegsKeptBut (phys s.cpsr.mode t.rd :: if back then [phys s.cpsr.mode t.rn] else []) s t' ∧
      t'.cpsr = s.cpsr ∧ t'.branched = (decide (t.rd = 15) || s.branched) ∧ RestKept s t' ∧
      t'.bus = s.bus.afterRead address ∧ (s.bus.device address = false → t'.bus = s.bus) ∧
      t'.busLog = .read address (some v) :: s.busLog

/-- STR and STRT (44_single_data_transfer.md R210 to R214, R219, R220, R224, R229; D12: log 13).
What memory and the rest of the bus hold afterwards is said of the model's bus: log 1, 16, 19, 20. -/
def Obligations.StoreWordCompletes : Prop :=
  ∀ (c : Cond) (t : SingleTransfer) (s : State),
    let offset := transferOffset t.off s
    let computed := if t.u then s.getReg t.rn + offset else s.getReg t.rn - offset
    let address := if t.p then computed else s.getReg t.rn
    let back := !t.p || t.w
    conditionPasses c s.cpsr = true → t.l = false → t.b = false →
    (back = true → t.rn ≠ t.rd ∧ t.rn ≠ 15) → s.bus.accepts address (s.getReg t.rd) = true →
    ∃ t', exec (singleInstr c t) s = .next t' ∧ t'.bus = s.bus.afterWrite address (s.getReg t.rd) ∧
      (s.bus.storesAt address ≠ none → t'.bus.read address = some (s.getReg t.rd)) ∧
      (s.bus.device address = false → t'.bus = { s.bus with mem := t'.bus.mem } ∧
        ∀ n, ¬ ByteOfWord s.bus address n → t'.bus.mem.readByte n = s.bus.mem.readByte n) ∧
      (back = true → t'.getReg t.rn = computed) ∧
      RegsKeptBut (if back then [phys s.cpsr.mode t.rn] else []) s t' ∧
      t'.cpsr = s.cpsr ∧ t'.branched = s.branched ∧ RestKept s t' ∧
      t'.busLog = .write address (s.getReg t.rd) true :: s.busLog

/-- The byte forms (44_single_data_transfer.md R215, R221, R222, R225, R226; decision D11: log 13). -/
def Obligations.ByteTransferHalts : Prop :=
  ∀ (c : Cond) (t : SingleTransfer) (s : State),
    conditionPasses c s.cpsr = true → t.b = true →
    exec (singleInstr c t) s =
      .next { s with halted := some (.unimplementedInstruction (encode (singleInstr c t))) }

/-- Write-back with Rn = Rd or Rn = 15 (44_single_data_transfer.md R216, 60_exceptions.md R282;
decision D12: log 13). -/
def Obligations.UnpredictableTransferHalts : Prop :=
  ∀ (c : Cond) (t : SingleTransfer) (s : State),
    conditionPasses c s.cpsr = true → t.b = false → (t.p = false ∨ t.w = true) →
    (t.rn = t.rd ∨ t.rn = 15) →
    exec (singleInstr c t) s =
      .next { s with halted := some (.unpredictableEncoding (encode (singleInstr c t))) }

/-- A faulted access (44_single_data_transfer.md R227, 20_memory.md R62, R63, R67, 60_exceptions.md R284;
decision D9: log 5). The conjunct MappingKept is no rule of the spec: R6 leaves it to the platform, and that a refused
write, at a device too, changes no mapping is the model's choice (log 1, 20). So is what a faulted access away from
devices does to the bus (log 1, 16, 19). -/
def Obligations.FaultedTransferHalts : Prop :=
  ∀ (c : Cond) (t : SingleTransfer) (s : State),
    let offset := transferOffset t.off s
    let computed := if t.u then s.getReg t.rn + offset else s.getReg t.rn - offset
    let address := if t.p then computed else s.getReg t.rn
    conditionPasses c s.cpsr = true → t.b = false →
    ((t.p = false ∨ t.w = true) → t.rn ≠ t.rd ∧ t.rn ≠ 15) → s.policy = .halt →
    (t.l = true → s.bus.read address = none → exec (singleInstr c t) s =
      .next { s with
        bus := s.bus.afterRead address
        busLog := .read address none :: s.busLog
        halted := some (.busFault address .read) }) ∧
    (t.l = false → s.bus.accepts address (s.getReg t.rd) = false → exec (singleInstr c t) s =
      .next { s with
        bus := s.bus.afterWrite address (s.getReg t.rd)
        busLog := .write address (s.getReg t.rd) false :: s.busLog
        halted := some (.busFault address .write) }) ∧
    (s.bus.accepts address (s.getReg t.rd) = false →
      (s.bus.afterWrite address (s.getReg t.rd)).mem = s.bus.mem ∧
      MappingKept s.bus (s.bus.afterWrite address (s.getReg t.rd))) ∧
    (s.bus.device address = false → s.bus.afterRead address = s.bus ∧
      (s.bus.accepts address (s.getReg t.rd) = false → s.bus.afterWrite address (s.getReg t.rd) = s.bus))

/-- The policy ignore. The dropped write and the free word are 20_memory.md R67; that the instruction then goes on
as if the access had been answered is no rule of the spec (93_implementation_defined.md U10 leaves all of it open)
but the model's inference: log 5 (DEDUCED, unsafe). The free words: log 6.
What memory and the rest of the bus hold afterwards is said of the model's bus: log 1, 16, 19, 20. -/
def Obligations.IgnoredFaultGoesOn : Prop :=
  (∀ (c : Cond) (t : SingleTransfer) (s : State),
    let offset := transferOffset t.off s
    let computed := if t.u then s.getReg t.rn + offset else s.getReg t.rn - offset
    let address := if t.p then computed else s.getReg t.rn
    let back := !t.p || t.w
    conditionPasses c s.cpsr = true → t.b = false → (back = true → t.rn ≠ t.rd ∧ t.rn ≠ 15) →
    s.policy = .ignore →
    (if t.l then s.bus.read address = none else s.bus.accepts address (s.getReg t.rd) = false) →
    ∃ t', exec (singleInstr c t) s = .next t' ∧
      (t.l = true → t'.getReg t.rd = Config.freeWord s.draws ∧ t'.draws = s.draws + 1) ∧
      (t.l = false → t'.draws = s.draws) ∧
      (back = true → t'.getReg t.rn = computed) ∧
      RegsKeptBut ((if t.l then [phys s.cpsr.mode t.rd] else []) ++
        if back then [phys s.cpsr.mode t.rn] else []) s t' ∧
      t'.cpsr = s.cpsr ∧ t'.spsr = s.spsr ∧ t'.halted = s.halted ∧
      t'.bus = (if t.l then s.bus.afterRead address else s.bus.afterWrite address (s.getReg t.rd)) ∧
      (t.l = false → t'.bus.mem = s.bus.mem) ∧ (s.bus.device address = false → t'.bus = s.bus) ∧
      t'.fetched = s.fetched ∧ t'.decoded = s.decoded ∧ t'.policy = s.policy ∧
      t'.branched = (t.l && decide (t.rd = 15) || s.branched) ∧
      t'.busLog = (if t.l then .read address none else .write address (s.getReg t.rd) false) :: s.busLog) ∧
    ∀ (c : Cond) (t : BlockTransfer) (s : State),
      conditionPasses c s.cpsr = true → t.sb = false →
      (t.w = true → t.rn ≠ 15 ∧ t.list.getLsbD t.rn.toNat = false) → s.policy = .ignore →
      ∃ t', exec (blockInstr c t) s = .next t' ∧
        (t.l = true → (∀ i : Reg, t.list.getLsbD i.toNat = true →
            t'.getReg i = ((t.busAt s i).read (t.addressOf s i)).getD
              (Config.freeWord (s.draws + ((t.before i).filter (t.faultsAt s)).length))) ∧
          t'.draws = s.draws + (t.registers.filter (t.faultsAt s)).length) ∧
        (t.l = false → t'.draws = s.draws) ∧
        (t.w = true → t'.getReg t.rn = t.newBase s) ∧
        RegsKeptBut ((if t.l then t.registers.map (phys s.cpsr.mode) else []) ++
          if t.w then [phys s.cpsr.mode t.rn] else []) s t' ∧
        t'.cpsr = s.cpsr ∧ t'.spsr = s.spsr ∧ t'.halted = s.halted ∧ t'.bus = t.busAfter s ∧
        (t.l = false → ∀ i : Reg, t.faultsAt s i = true → (t.access s (t.busAt s i) i).mem = (t.busAt s i).mem) ∧
        ((∀ i : Reg, t.list.getLsbD i.toNat = true → s.bus.device (t.addressOf s i) = false) →
          (t.l = true → t'.bus = s.bus) ∧ t'.bus = { s.bus with mem := t'.bus.mem } ∧
          (t.l = false →
            (∀ i : Reg, t.list.getLsbD i.toNat = true → s.bus.storesAt (t.addressOf s i) ≠ none →
              t'.bus.read (t.addressOf s i) = some (s.getReg i)) ∧
            ∀ n, (∀ i : Reg, t.list.getLsbD i.toNat = true → t.faultsAt s i = false →
                ¬ ByteOfWord s.bus (t.addressOf s i) n) →
              t'.bus.mem.readByte n = s.bus.mem.readByte n)) ∧
        t'.fetched = s.fetched ∧ t'.decoded = s.decoded ∧ t'.policy = s.policy ∧
        t'.branched = (t.l && t.list.getLsbD 15 || s.branched) ∧
        t'.busLog = (t.registers.map (t.event s)).reverse ++ s.busLog

/-- The start, last and write-back addresses (45_block_data_transfer.md R232). -/
def Obligations.BlockAddressesFollowTheFourModes : Prop :=
  ∀ (t : BlockTransfer) (s : State),
    let base := s.getReg t.rn
    let size := BitVec.ofNat 32 (4 * listRank t.list 16)
    let last := t.start s + size - 4
    (t.u = true → t.p = false → t.start s = base ∧ last = base + size - 4 ∧ t.newBase s = base + size) ∧
    (t.u = true → t.p = true → t.start s = base + 4 ∧ last = base + size ∧ t.newBase s = base + size) ∧
    (t.u = false → t.p = false → t.start s = base - size + 4 ∧ last = base ∧ t.newBase s = base - size) ∧
    (t.u = false → t.p = true → t.start s = base - size ∧ last = base - 4 ∧ t.newBase s = base - size)

/-- LDM (45_block_data_transfer.md R230, R231, R233, R234, R238, R240 to R243, R249; D13, D17: log 13).
What memory and the rest of the bus hold afterwards is said of the model's bus: log 1, 16, 19, 20. -/
def Obligations.BlockLoadCompletes : Prop :=
  ∀ (c : Cond) (t : BlockTransfer) (s : State),
    conditionPasses c s.cpsr = true → t.l = true → t.sb = false →
    (t.w = true → t.rn ≠ 15 ∧ t.list.getLsbD t.rn.toNat = false) →
    (∀ i : Reg, t.list.getLsbD i.toNat = true → (t.busAt s i).read (t.addressOf s i) ≠ none) →
    ∃ t', exec (blockInstr c t) s = .next t' ∧
      (∀ i : Reg, t.list.getLsbD i.toNat = true →
        (t.busAt s i).read (t.addressOf s i) = some (t'.getReg i)) ∧
      (t.w = true → t'.getReg t.rn = t.newBase s) ∧
      RegsKeptBut (t.registers.map (phys s.cpsr.mode) ++ if t.w then [phys s.cpsr.mode t.rn] else []) s t' ∧
      t'.cpsr = s.cpsr ∧ t'.branched = (t.list.getLsbD 15 || s.branched) ∧ RestKept s t' ∧
      t'.bus = t.busAfter s ∧
      ((∀ i : Reg, t.list.getLsbD i.toNat = true → s.bus.device (t.addressOf s i) = false) →
        t'.bus = s.bus ∧ ∀ i : Reg, t.list.getLsbD i.toNat = true →
          s.bus.read (t.addressOf s i) = some (t'.getReg i)) ∧
      t'.busLog = (t.registers.map (t.event s)).reverse ++ s.busLog

/-- STM (45_block_data_transfer.md R230, R231, R233, R234, R239, R244 to R247, R249; D13: log 13).
What memory and the rest of the bus hold afterwards is said of the model's bus: log 1, 16, 19, 20. -/
def Obligations.BlockStoreCompletes : Prop :=
  ∀ (c : Cond) (t : BlockTransfer) (s : State),
    conditionPasses c s.cpsr = true → t.l = false → t.sb = false →
    (t.w = true → t.rn ≠ 15 ∧ t.list.getLsbD t.rn.toNat = false) →
    (∀ i : Reg, t.list.getLsbD i.toNat = true →
      (t.busAt s i).accepts (t.addressOf s i) (s.getReg i) = true) →
    ∃ t', exec (blockInstr c t) s = .next t' ∧ t'.bus = t.busAfter s ∧
      ((∀ i : Reg, t.list.getLsbD i.toNat = true → s.bus.device (t.addressOf s i) = false) →
        (∀ i : Reg, t.list.getLsbD i.toNat = true → s.bus.storesAt (t.addressOf s i) ≠ none →
          t'.bus.read (t.addressOf s i) = some (s.getReg i)) ∧
        (∀ n, (∀ i : Reg, t.list.getLsbD i.toNat = true → ¬ ByteOfWord s.bus (t.addressOf s i) n) →
          t'.bus.mem.readByte n = s.bus.mem.readByte n) ∧
        t'.bus = { s.bus with mem := t'.bus.mem }) ∧
      (t.w = true → t'.getReg t.rn = t.newBase s) ∧
      RegsKeptBut (if t.w then [phys s.cpsr.mode t.rn] else []) s t' ∧
      t'.cpsr = s.cpsr ∧ t'.branched = s.branched ∧ RestKept s t' ∧
      t'.busLog = (t.registers.map (t.event s)).reverse ++ s.busLog

/-- The block forms without meaning (45_block_data_transfer.md R235, R236; decision D13: log 13). -/
def Obligations.BlockFormsWithoutMeaningHalt : Prop :=
  ∀ (c : Cond) (t : BlockTransfer) (s : State),
    conditionPasses c s.cpsr = true →
    (t.sb = true → exec (blockInstr c t) s =
      .next { s with halted := some (.unimplementedInstruction (encode (blockInstr c t))) }) ∧
    (t.sb = false → t.w = true → (t.rn = 15 ∨ t.list.getLsbD t.rn.toNat = true) →
      exec (blockInstr c t) s =
        .next { s with halted := some (.unpredictableEncoding (encode (blockInstr c t))) })

/-- The empty list (45_block_data_transfer.md R237; decision D13: log 13). -/
def Obligations.EmptyBlockChangesNothing : Prop :=
  ∀ (c : Cond) (t : BlockTransfer) (s : State),
    t.list = 0 → t.sb = false → (t.w = true → t.rn ≠ 15) → exec (blockInstr c t) s = .next s

/-- A fault inside a block transfer (45_block_data_transfer.md R248, 60_exceptions.md R284).
What memory and the rest of the bus hold afterwards is said of the model's bus: log 1, 16, 19, 20. -/
def Obligations.BlockFaultKeepsThePrefix : Prop :=
  ∀ (c : Cond) (t : BlockTransfer) (s : State) (j : Reg),
    conditionPasses c s.cpsr = true → t.sb = false →
    (t.w = true → t.rn ≠ 15 ∧ t.list.getLsbD t.rn.toNat = false) → s.policy = .halt →
    t.list.getLsbD j.toNat = true →
    (∀ i ∈ t.before j, t.faultsAt s i = false) → t.faultsAt s j = true →
    ∃ t', exec (blockInstr c t) s = .next t' ∧
      t'.halted = some (.busFault (t.addressOf s j) (if t.l then .read else .write)) ∧
      (t.l = true → (∀ i ∈ t.before j, (t.busAt s i).read (t.addressOf s i) = some (t'.getReg i)) ∧
        RegsKeptBut ((t.before j).map (phys s.cpsr.mode)) s t') ∧
      (t.l = false → t'.regs = s.regs) ∧
      t'.bus = t.access s (t.busAt s j) j ∧ (t.l = false → t'.bus.mem = (t.busAt s j).mem) ∧
      ((∀ i ∈ t.before j, s.bus.device (t.addressOf s i) = false) → s.bus.device (t.addressOf s j) = false →
        (t.l = true → t'.bus = s.bus) ∧ t'.bus = { s.bus with mem := t'.bus.mem } ∧
        (t.l = false →
          (∀ i ∈ t.before j, s.bus.storesAt (t.addressOf s i) ≠ none →
            t'.bus.read (t.addressOf s i) = some (s.getReg i)) ∧
          ∀ n, (∀ i ∈ t.before j, ¬ ByteOfWord s.bus (t.addressOf s i) n) →
            t'.bus.mem.readByte n = s.bus.mem.readByte n)) ∧
      t'.cpsr = s.cpsr ∧ t'.spsr = s.spsr ∧ t'.branched = s.branched ∧
      t'.fetched = s.fetched ∧ t'.decoded = s.decoded ∧ t'.draws = s.draws ∧ t'.policy = s.policy ∧
      t'.busLog = t.event s j :: ((t.before j).map (t.event s)).reverse ++ s.busLog

/-- The common rule of the unexecuted classes (46_unexecuted_classes.md R250, R275, 60_exceptions.md R281,
R288; decision D16: log 13). -/
def Obligations.UnexecutedClassesHalt : Prop :=
  ∀ (i : Instr) (s : State), i.cls.executed = false → conditionPasses i.cond s.cpsr = true →
    exec i s = .next { s with halted := some (.unimplementedInstruction (encode i)) }

/-- No instruction and no step changes the mode or an SPSR (60_exceptions.md R293, 10_state.md R32, R36,
46_unexecuted_classes.md R258; that a halt is a next state: log 10). The clause MappingKept is no rule of the spec: R6
and R68 leave mapping, alignment treatment and byte order to the platform, and that no access changes them is the
model's choice (log 1, 20). -/
def Obligations.EveryInstructionAnswersAndKeepsModeAndSpsr : Prop :=
  (∀ (i : Instr) (s : State), ∃ t, exec i s = .next t ∧ t.cpsr.mode = s.cpsr.mode ∧ t.spsr = s.spsr ∧
      t.cpsr.res = s.cpsr.res ∧ t.fetched = s.fetched ∧ t.decoded = s.decoded ∧ t.policy = s.policy ∧
      MappingKept s.bus t.bus) ∧
    ∀ s : State, ∃ t, step s = .next t ∧ t.cpsr.mode = s.cpsr.mode ∧ t.spsr = s.spsr ∧
      t.cpsr.res = s.cpsr.res ∧ t.policy = s.policy ∧ MappingKept s.bus t.bus

/-- Read after write, and side effects, on the model's bus (00_scope.md R6, 20_memory.md R61, R67, R68, R70,
44_single_data_transfer.md R227; the bus is the model's, and that a device which answers Fault has still had the
request is its choice: log 1, 3, 16, 19, 20). -/
def Obligations.StoredWordReadsBackAlone : Prop :=
  ∀ (b : Bus) (a v : Word),
    (∀ t, b.storesAt a = some t → b.accepts a v = true ∧ (b.afterWrite a v).read a = some v ∧
      ∀ n, (∀ k < 4, n ≠ byteAddress t k) → (b.afterWrite a v).mem.readByte n = b.mem.readByte n) ∧
    (b.device a = false → b.afterRead a = b ∧ (b.storesAt a = none → b.afterWrite a v = b) ∧
      (b.afterWrite a v).requests = b.requests) ∧
    (b.accepts a v = false → b.afterWrite a v = { b with requests := (b.afterWrite a v).requests }) ∧
    (b.device a = true → (b.afterRead a).requests = .read a :: b.requests ∧
      (b.afterWrite a v).requests = .write a v :: b.requests) ∧
    ∀ b' ∈ [b.afterRead a, b.afterWrite a v], MappingKept b b' ∧ (b.mem.wf = true → b'.mem.wf = true)

/-- The canonical form of memory, the model's own representation (log 1, 2; 20_memory.md R60). -/
def Obligations.CanonicalMemoriesThatReadAlikeAreEqual : Prop :=
  (∀ (m : Memory) (a : Nat) (v : Byte), m.wf = true → a < 2 ^ 32 →
      (m.writeByte a v).wf = true ∧ ∀ n, (m.writeByte a v).readByte n = if n = a then v else m.readByte n) ∧
    ∀ m m' : Memory, m.wf = true → m'.wf = true → (∀ n, m.readByte n = m'.readByte n) → m = m'

/-- The step around exec (40_step_pipeline_condition.md R130, R135, R144; decision D2: log 13). What the fetch does to the
bus is said of the model's bus: log 1, 20. -/
def Obligations.StepRunsTheDecodedInstruction : Prop :=
  ∀ (s t : State) (i : Instr), s.halted = none → s.decoded = .instr i →
    exec i { s with branched := false } = .next t →
    step s = .next (
      if t.halted.isSome then { t with branched := false }
      else if t.branched then { t with fetched := .none, decoded := .none, branched := false }
      else { t with
        decoded := match t.fetched with
          | .none => .none
          | .word w => .instr (decode w)
          | .fetchFault a => .fetchFault a
        fetched := match t.bus.read t.pc with
          | some w => .word w
          | none => .fetchFault t.pc
        bus := t.bus.afterRead t.pc
        busLog := .read t.pc (t.bus.read t.pc) :: t.busLog
        regs := t.regs.set (.r 15) (t.pc + 4) })

/-- Start-up from Empty (40_step_pipeline_condition.md R131, R139; 70_reset_and_hazards.md R307).
That nothing behind the bus changes unless one of the two addresses is a device's is no rule
of the spec (20_memory.md R70 leaves a read's side effects to the bus) but the model's choice: log 1, 20. -/
def Obligations.WordAtProgramCounterRunsInThirdStep : Prop :=
  ∀ (s : State) (w : Word), s.halted = none → s.branched = false → s.fetched = .none → s.decoded = .none →
    s.bus.read s.pc = some w →
    ∃ s₁ s₂, step s = .next s₁ ∧ step s₁ = .next s₂ ∧
      s₁.fetched = .word w ∧ s₁.decoded = .none ∧ s₁.pc = s.pc + 4 ∧
      s₂.decoded = .instr (decode w) ∧ s₂.pc = s.pc + 8 ∧ s₂.halted = none ∧ s₂.branched = false ∧
      RegsKeptBut [.r 15] s s₂ ∧ s₂.cpsr = s.cpsr ∧ s₂.spsr = s.spsr ∧
      s₂.bus = (s.bus.afterRead s.pc).afterRead (s.pc + 4) ∧
      (s.bus.device s.pc = false → s.bus.device (s.pc + 4) = false → s₂.bus = s.bus) ∧
      s₂.busLog = .read (s.pc + 4) ((s.bus.afterRead s.pc).read (s.pc + 4)) :: .read s.pc (some w) :: s.busLog ∧
      ∀ t, exec (decode w) s₂ = .next t → step s₂ = .next t.completeStep

/-- The flush (40_step_pipeline_condition.md R130, R132); that such a step makes no fetch is the spec's decision D2
(R130, 20_memory.md R73; log 13). -/
def Obligations.FlushKeepsTheWrittenTarget : Prop :=
  ∀ (s t : State) (i : Instr), s.halted = none → s.decoded = .instr i →
    exec i { s with branched := false } = .next t → t.branched = true → t.halted = none →
    ∃ t', step s = .next t' ∧ t'.fetched = .none ∧ t'.decoded = .none ∧ t'.pc = t.pc ∧ t'.regs = t.regs ∧
      t'.cpsr = t.cpsr ∧ t'.busLog = t.busLog ∧ t'.bus = t.bus ∧ t'.halted = none

/-- Stale fetch (70_reset_and_hazards.md R306, 20_memory.md R73, R77; decision D2: log 13).
That away from devices the fetch leaves the bus as it is is no rule
of the spec (20_memory.md R70 leaves a read's side effects to the bus) but the model's choice: log 1, 20. -/
def Obligations.FetchedWordIsNotRefetched : Prop :=
  ∀ (s t : State) (w : Word), s.halted = none → s.fetched = .word w → step s = .next t → t.halted = none →
    (t.fetched = .none ∧ t.decoded = .none) ∨
    (t.decoded = .instr (decode w) ∧ ∃ b : Bus, t.bus = b.afterRead (t.pc - 4) ∧
      (s.decoded = .none → b = s.bus) ∧
      (∀ i u, s.decoded = .instr i → exec i { s with branched := false } = .next u → b = u.bus) ∧
      (b.device (t.pc - 4) = false → t.bus = b) ∧
      t.busLog.head? = some (.read (t.pc - 4) (b.read (t.pc - 4))) ∧
      t.fetched = match b.read (t.pc - 4) with
        | some v => .word v
        | none => .fetchFault (t.pc - 4))

/-- The halted core (40_step_pipeline_condition.md R143, 10_state.md R40; decision D21: log 13). -/
def Obligations.HaltedCoreNeverMoves : Prop :=
  ∀ s : State, s.halted ≠ none → step s = .next s

/-- The deferred fetch fault (40_step_pipeline_condition.md R133, 60_exceptions.md R283; D10: log 13). What a fetch does
to the bus is said of the model's bus: log 1, 20. -/
def Obligations.FetchFaultIsDeferredToExecution : Prop :=
  (∀ (s : State) (a : Word), s.halted = none → s.decoded = .fetchFault a →
      step s = .next { s with branched := false, halted := some (.busFault a .fetch) }) ∧
    (∀ (s t : State) (i : Instr), s.halted = none → s.decoded = .instr i →
      exec i { s with branched := false } = .next t → t.halted = none → t.branched = false →
      t.bus.read t.pc = none →
      ∃ t', step s = .next t' ∧ t'.halted = none ∧ t'.fetched = .fetchFault t.pc ∧ t'.pc = t.pc + 4) ∧
    (∀ s : State, s.halted = none → s.decoded = .none → s.bus.read s.pc = none →
      ∃ t', step s = .next t' ∧ t'.halted = none ∧ t'.fetched = .fetchFault s.pc ∧ t'.pc = s.pc + 4) ∧
    (∀ (s t : State) (a : Word), s.halted = none → s.fetched = .fetchFault a → step s = .next t →
      t.halted = none → t.decoded = .fetchFault a ∨ (t.fetched = .none ∧ t.decoded = .none)) ∧
    ∀ s : State, s.halted = none → s.branched = false → s.fetched = .none → s.decoded = .none →
      s.bus.read s.pc = none →
      ∃ s₁ s₂, step s = .next s₁ ∧ step s₁ = .next s₂ ∧
        s₁.halted = none ∧ s₁.fetched = .fetchFault s.pc ∧ s₂.halted = none ∧
        s₂.decoded = .fetchFault s.pc ∧ s₂.pc = s.pc + 8 ∧ RegsKeptBut [.r 15] s s₂ ∧
        s₂.cpsr = s.cpsr ∧ s₂.bus = (s.bus.afterRead s.pc).afterRead (s.pc + 4) ∧
        step s₂ = .next { s₂ with halted := some (.busFault s.pc .fetch) }

/-- The invariant of 10_state.md R43 (a) to (d), with the model's own fields (R31 to R33; log 2, 8; that memory
stays canonical is of the model's bus: log 1, 20). -/
def Obligations.StepKeepsTheMachineInvariant : Prop :=
  ∀ s t : State, s.Inv → step s = .next t → t.Inv

/-- The invariant holds after New (10_state.md R34, R43; with the model's own fields: log 2, 8). -/
def Obligations.NewMeetsTheMachineInvariant : Prop :=
  (∀ (bus : Bus) (policy : BusFaultPolicy), bus.mem.wf = true → (State.new bus policy).Inv) ∧
    State.reset.Inv

/-- The operations of 10_state.md R35 to R38 keep the invariant of R43, with the model's own fields (log 2, 8). -/
def Obligations.HostOperationsKeepTheMachineInvariant : Prop :=
  ∀ s : State, s.Inv →
    (∀ m, (s.setMode m).Inv) ∧ s.storeSpsr.Inv ∧ (∀ i v, (s.hostWriteReg i v).Inv) ∧ s.hostReset.Inv

end
end

