-- ==== Sys2Proof/Laws/State.lean ====
section
/-! SUPPORT. What each update of the state leaves in each field, one lemma a field, so that no later proof
unfolds a record update. -/

namespace Sys2Proof.Machine

variable (s : State)

/-! ### setReg -/

@[simp] theorem State.setReg_regs (i : Reg) (v : Word) : (s.setReg i v).regs = s.regs.set (phys s.cpsr.mode i) v := rfl
@[simp] theorem State.setReg_cpsr (i : Reg) (v : Word) : (s.setReg i v).cpsr = s.cpsr := rfl
@[simp] theorem State.setReg_spsr (i : Reg) (v : Word) : (s.setReg i v).spsr = s.spsr := rfl
@[simp] theorem State.setReg_fetched (i : Reg) (v : Word) : (s.setReg i v).fetched = s.fetched := rfl
@[simp] theorem State.setReg_decoded (i : Reg) (v : Word) : (s.setReg i v).decoded = s.decoded := rfl
@[simp] theorem State.setReg_halted (i : Reg) (v : Word) : (s.setReg i v).halted = s.halted := rfl
@[simp] theorem State.setReg_branched (i : Reg) (v : Word) : (s.setReg i v).branched = s.branched := rfl
@[simp] theorem State.setReg_bus (i : Reg) (v : Word) : (s.setReg i v).bus = s.bus := rfl
@[simp] theorem State.setReg_policy (i : Reg) (v : Word) : (s.setReg i v).policy = s.policy := rfl
@[simp] theorem State.setReg_busLog (i : Reg) (v : Word) : (s.setReg i v).busLog = s.busLog := rfl
@[simp] theorem State.setReg_draws (i : Reg) (v : Word) : (s.setReg i v).draws = s.draws := rfl

/-! ### setPc -/

@[simp] theorem State.setPc_regs (v : Word) : (s.setPc v).regs = s.regs.set (.r 15) v := rfl
@[simp] theorem State.setPc_cpsr (v : Word) : (s.setPc v).cpsr = s.cpsr := rfl
@[simp] theorem State.setPc_spsr (v : Word) : (s.setPc v).spsr = s.spsr := rfl
@[simp] theorem State.setPc_fetched (v : Word) : (s.setPc v).fetched = s.fetched := rfl
@[simp] theorem State.setPc_decoded (v : Word) : (s.setPc v).decoded = s.decoded := rfl
@[simp] theorem State.setPc_halted (v : Word) : (s.setPc v).halted = s.halted := rfl
@[simp] theorem State.setPc_branched (v : Word) : (s.setPc v).branched = s.branched := rfl
@[simp] theorem State.setPc_bus (v : Word) : (s.setPc v).bus = s.bus := rfl
@[simp] theorem State.setPc_policy (v : Word) : (s.setPc v).policy = s.policy := rfl
@[simp] theorem State.setPc_busLog (v : Word) : (s.setPc v).busLog = s.busLog := rfl
@[simp] theorem State.setPc_draws (v : Word) : (s.setPc v).draws = s.draws := rfl

/-! ### halt -/

@[simp] theorem State.halt_regs (r : HaltReason) : (s.halt r).regs = s.regs := rfl
@[simp] theorem State.halt_cpsr (r : HaltReason) : (s.halt r).cpsr = s.cpsr := rfl
@[simp] theorem State.halt_spsr (r : HaltReason) : (s.halt r).spsr = s.spsr := rfl
@[simp] theorem State.halt_fetched (r : HaltReason) : (s.halt r).fetched = s.fetched := rfl
@[simp] theorem State.halt_decoded (r : HaltReason) : (s.halt r).decoded = s.decoded := rfl
@[simp] theorem State.halt_halted (r : HaltReason) : (s.halt r).halted = some r := rfl
@[simp] theorem State.halt_branched (r : HaltReason) : (s.halt r).branched = s.branched := rfl
@[simp] theorem State.halt_bus (r : HaltReason) : (s.halt r).bus = s.bus := rfl
@[simp] theorem State.halt_policy (r : HaltReason) : (s.halt r).policy = s.policy := rfl
@[simp] theorem State.halt_busLog (r : HaltReason) : (s.halt r).busLog = s.busLog := rfl
@[simp] theorem State.halt_draws (r : HaltReason) : (s.halt r).draws = s.draws := rfl

/-! ### logEvent -/

@[simp] theorem State.logEvent_regs (e : BusEvent) : (s.logEvent e).regs = s.regs := rfl
@[simp] theorem State.logEvent_cpsr (e : BusEvent) : (s.logEvent e).cpsr = s.cpsr := rfl
@[simp] theorem State.logEvent_spsr (e : BusEvent) : (s.logEvent e).spsr = s.spsr := rfl
@[simp] theorem State.logEvent_fetched (e : BusEvent) : (s.logEvent e).fetched = s.fetched := rfl
@[simp] theorem State.logEvent_decoded (e : BusEvent) : (s.logEvent e).decoded = s.decoded := rfl
@[simp] theorem State.logEvent_halted (e : BusEvent) : (s.logEvent e).halted = s.halted := rfl
@[simp] theorem State.logEvent_branched (e : BusEvent) : (s.logEvent e).branched = s.branched := rfl
@[simp] theorem State.logEvent_bus (e : BusEvent) : (s.logEvent e).bus = s.bus := rfl
@[simp] theorem State.logEvent_policy (e : BusEvent) : (s.logEvent e).policy = s.policy := rfl
@[simp] theorem State.logEvent_busLog (e : BusEvent) : (s.logEvent e).busLog = e :: s.busLog := rfl
@[simp] theorem State.logEvent_draws (e : BusEvent) : (s.logEvent e).draws = s.draws := rfl

/-! ### drawn -/

@[simp] theorem State.drawn_regs : (s.drawn).regs = s.regs := rfl
@[simp] theorem State.drawn_cpsr : (s.drawn).cpsr = s.cpsr := rfl
@[simp] theorem State.drawn_spsr : (s.drawn).spsr = s.spsr := rfl
@[simp] theorem State.drawn_fetched : (s.drawn).fetched = s.fetched := rfl
@[simp] theorem State.drawn_decoded : (s.drawn).decoded = s.decoded := rfl
@[simp] theorem State.drawn_halted : (s.drawn).halted = s.halted := rfl
@[simp] theorem State.drawn_branched : (s.drawn).branched = s.branched := rfl
@[simp] theorem State.drawn_bus : (s.drawn).bus = s.bus := rfl
@[simp] theorem State.drawn_policy : (s.drawn).policy = s.policy := rfl
@[simp] theorem State.drawn_busLog : (s.drawn).busLog = s.busLog := rfl
@[simp] theorem State.drawn_draws : (s.drawn).draws = s.draws + 1 := rfl

/-! ### setFlags -/

@[simp] theorem State.setFlags_regs (o : AluOut) : (s.setFlags o).regs = s.regs := rfl
@[simp] theorem State.setFlags_cpsr (o : AluOut) : (s.setFlags o).cpsr = s.cpsr.withFlags o := rfl
@[simp] theorem State.setFlags_spsr (o : AluOut) : (s.setFlags o).spsr = s.spsr := rfl
@[simp] theorem State.setFlags_fetched (o : AluOut) : (s.setFlags o).fetched = s.fetched := rfl
@[simp] theorem State.setFlags_decoded (o : AluOut) : (s.setFlags o).decoded = s.decoded := rfl
@[simp] theorem State.setFlags_halted (o : AluOut) : (s.setFlags o).halted = s.halted := rfl
@[simp] theorem State.setFlags_branched (o : AluOut) : (s.setFlags o).branched = s.branched := rfl
@[simp] theorem State.setFlags_bus (o : AluOut) : (s.setFlags o).bus = s.bus := rfl
@[simp] theorem State.setFlags_policy (o : AluOut) : (s.setFlags o).policy = s.policy := rfl
@[simp] theorem State.setFlags_busLog (o : AluOut) : (s.setFlags o).busLog = s.busLog := rfl
@[simp] theorem State.setFlags_draws (o : AluOut) : (s.setFlags o).draws = s.draws := rfl

/-! ### beginStep -/

@[simp] theorem State.beginStep_regs : (s.beginStep).regs = s.regs := rfl
@[simp] theorem State.beginStep_cpsr : (s.beginStep).cpsr = s.cpsr := rfl
@[simp] theorem State.beginStep_spsr : (s.beginStep).spsr = s.spsr := rfl
@[simp] theorem State.beginStep_fetched : (s.beginStep).fetched = s.fetched := rfl
@[simp] theorem State.beginStep_decoded : (s.beginStep).decoded = s.decoded := rfl
@[simp] theorem State.beginStep_halted : (s.beginStep).halted = s.halted := rfl
@[simp] theorem State.beginStep_branched : (s.beginStep).branched = false := rfl
@[simp] theorem State.beginStep_bus : (s.beginStep).bus = s.bus := rfl
@[simp] theorem State.beginStep_policy : (s.beginStep).policy = s.policy := rfl
@[simp] theorem State.beginStep_busLog : (s.beginStep).busLog = s.busLog := rfl
@[simp] theorem State.beginStep_draws : (s.beginStep).draws = s.draws := rfl

/-! ### flush -/

@[simp] theorem State.flush_regs : (s.flush).regs = s.regs := rfl
@[simp] theorem State.flush_cpsr : (s.flush).cpsr = s.cpsr := rfl
@[simp] theorem State.flush_spsr : (s.flush).spsr = s.spsr := rfl
@[simp] theorem State.flush_fetched : (s.flush).fetched = .none := rfl
@[simp] theorem State.flush_decoded : (s.flush).decoded = .none := rfl
@[simp] theorem State.flush_halted : (s.flush).halted = s.halted := rfl
@[simp] theorem State.flush_branched : (s.flush).branched = false := rfl
@[simp] theorem State.flush_bus : (s.flush).bus = s.bus := rfl
@[simp] theorem State.flush_policy : (s.flush).policy = s.policy := rfl
@[simp] theorem State.flush_busLog : (s.flush).busLog = s.busLog := rfl
@[simp] theorem State.flush_draws : (s.flush).draws = s.draws := rfl

/-! ### placeWord -/

@[simp] theorem State.placeWord_regs (a w : Word) : (s.placeWord a w).regs = s.regs := rfl
@[simp] theorem State.placeWord_cpsr (a w : Word) : (s.placeWord a w).cpsr = s.cpsr := rfl
@[simp] theorem State.placeWord_spsr (a w : Word) : (s.placeWord a w).spsr = s.spsr := rfl
@[simp] theorem State.placeWord_fetched (a w : Word) : (s.placeWord a w).fetched = s.fetched := rfl
@[simp] theorem State.placeWord_decoded (a w : Word) : (s.placeWord a w).decoded = s.decoded := rfl
@[simp] theorem State.placeWord_halted (a w : Word) : (s.placeWord a w).halted = s.halted := rfl
@[simp] theorem State.placeWord_branched (a w : Word) : (s.placeWord a w).branched = s.branched := rfl
@[simp] theorem State.placeWord_bus (a w : Word) : (s.placeWord a w).bus = { s.bus with mem := s.bus.mem.writeWord s.bus.order a w } := rfl
@[simp] theorem State.placeWord_policy (a w : Word) : (s.placeWord a w).policy = s.policy := rfl
@[simp] theorem State.placeWord_busLog (a w : Word) : (s.placeWord a w).busLog = s.busLog := rfl
@[simp] theorem State.placeWord_draws (a w : Word) : (s.placeWord a w).draws = s.draws := rfl

/-! ### emptyPipeline -/

@[simp] theorem State.emptyPipeline_regs : (s.emptyPipeline).regs = s.regs := rfl
@[simp] theorem State.emptyPipeline_cpsr : (s.emptyPipeline).cpsr = s.cpsr := rfl
@[simp] theorem State.emptyPipeline_spsr : (s.emptyPipeline).spsr = s.spsr := rfl
@[simp] theorem State.emptyPipeline_fetched : (s.emptyPipeline).fetched = .none := rfl
@[simp] theorem State.emptyPipeline_decoded : (s.emptyPipeline).decoded = .none := rfl
@[simp] theorem State.emptyPipeline_halted : (s.emptyPipeline).halted = none := rfl
@[simp] theorem State.emptyPipeline_branched : (s.emptyPipeline).branched = false := rfl
@[simp] theorem State.emptyPipeline_bus : (s.emptyPipeline).bus = s.bus := rfl
@[simp] theorem State.emptyPipeline_policy : (s.emptyPipeline).policy = s.policy := rfl
@[simp] theorem State.emptyPipeline_busLog : (s.emptyPipeline).busLog = s.busLog := rfl
@[simp] theorem State.emptyPipeline_draws : (s.emptyPipeline).draws = s.draws := rfl

/-! ### setMode -/

@[simp] theorem State.setMode_regs (m : Mode) : (s.setMode m).regs = s.regs := rfl
@[simp] theorem State.setMode_cpsr (m : Mode) : (s.setMode m).cpsr = { s.cpsr with mode := m } := rfl
@[simp] theorem State.setMode_spsr (m : Mode) : (s.setMode m).spsr = s.spsr := rfl
@[simp] theorem State.setMode_fetched (m : Mode) : (s.setMode m).fetched = s.fetched := rfl
@[simp] theorem State.setMode_decoded (m : Mode) : (s.setMode m).decoded = s.decoded := rfl
@[simp] theorem State.setMode_halted (m : Mode) : (s.setMode m).halted = s.halted := rfl
@[simp] theorem State.setMode_branched (m : Mode) : (s.setMode m).branched = s.branched := rfl
@[simp] theorem State.setMode_bus (m : Mode) : (s.setMode m).bus = s.bus := rfl
@[simp] theorem State.setMode_policy (m : Mode) : (s.setMode m).policy = s.policy := rfl
@[simp] theorem State.setMode_busLog (m : Mode) : (s.setMode m).busLog = s.busLog := rfl
@[simp] theorem State.setMode_draws (m : Mode) : (s.setMode m).draws = s.draws := rfl

/-! ### storeSpsr -/

@[simp] theorem State.storeSpsr_regs : (s.storeSpsr).regs = s.regs := rfl
@[simp] theorem State.storeSpsr_cpsr : (s.storeSpsr).cpsr = s.cpsr := rfl
@[simp] theorem State.storeSpsr_spsr : (s.storeSpsr).spsr = s.spsr.setSlot s.cpsr.mode s.cpsr.word := rfl
@[simp] theorem State.storeSpsr_fetched : (s.storeSpsr).fetched = s.fetched := rfl
@[simp] theorem State.storeSpsr_decoded : (s.storeSpsr).decoded = s.decoded := rfl
@[simp] theorem State.storeSpsr_halted : (s.storeSpsr).halted = s.halted := rfl
@[simp] theorem State.storeSpsr_branched : (s.storeSpsr).branched = s.branched := rfl
@[simp] theorem State.storeSpsr_bus : (s.storeSpsr).bus = s.bus := rfl
@[simp] theorem State.storeSpsr_policy : (s.storeSpsr).policy = s.policy := rfl
@[simp] theorem State.storeSpsr_busLog : (s.storeSpsr).busLog = s.busLog := rfl
@[simp] theorem State.storeSpsr_draws : (s.storeSpsr).draws = s.draws := rfl

/-! ### writeReg -/

@[simp] theorem State.writeReg_regs (i : Reg) (v : Word) : (s.writeReg i v).regs = s.regs.set (phys s.cpsr.mode i) v := by unfold State.writeReg; split <;> rfl
@[simp] theorem State.writeReg_cpsr (i : Reg) (v : Word) : (s.writeReg i v).cpsr = s.cpsr := by unfold State.writeReg; split <;> rfl
@[simp] theorem State.writeReg_spsr (i : Reg) (v : Word) : (s.writeReg i v).spsr = s.spsr := by unfold State.writeReg; split <;> rfl
@[simp] theorem State.writeReg_fetched (i : Reg) (v : Word) : (s.writeReg i v).fetched = s.fetched := by unfold State.writeReg; split <;> rfl
@[simp] theorem State.writeReg_decoded (i : Reg) (v : Word) : (s.writeReg i v).decoded = s.decoded := by unfold State.writeReg; split <;> rfl
@[simp] theorem State.writeReg_halted (i : Reg) (v : Word) : (s.writeReg i v).halted = s.halted := by unfold State.writeReg; split <;> rfl
@[simp] theorem State.writeReg_branched (i : Reg) (v : Word) : (s.writeReg i v).branched = (s.branched || i == 15) := by
  unfold State.writeReg
  split <;> simp_all
@[simp] theorem State.writeReg_bus (i : Reg) (v : Word) : (s.writeReg i v).bus = s.bus := by unfold State.writeReg; split <;> rfl
@[simp] theorem State.writeReg_policy (i : Reg) (v : Word) : (s.writeReg i v).policy = s.policy := by unfold State.writeReg; split <;> rfl
@[simp] theorem State.writeReg_busLog (i : Reg) (v : Word) : (s.writeReg i v).busLog = s.busLog := by unfold State.writeReg; split <;> rfl
@[simp] theorem State.writeReg_draws (i : Reg) (v : Word) : (s.writeReg i v).draws = s.draws := by unfold State.writeReg; split <;> rfl

/-! ### restoreFlags -/

@[simp] theorem State.restoreFlags_regs : (s.restoreFlags).regs = s.regs := by unfold State.restoreFlags; split <;> rfl
@[simp] theorem State.restoreFlags_spsr : (s.restoreFlags).spsr = s.spsr := by unfold State.restoreFlags; split <;> rfl
@[simp] theorem State.restoreFlags_fetched : (s.restoreFlags).fetched = s.fetched := by unfold State.restoreFlags; split <;> rfl
@[simp] theorem State.restoreFlags_decoded : (s.restoreFlags).decoded = s.decoded := by unfold State.restoreFlags; split <;> rfl
@[simp] theorem State.restoreFlags_halted : (s.restoreFlags).halted = s.halted := by unfold State.restoreFlags; split <;> rfl
@[simp] theorem State.restoreFlags_branched : (s.restoreFlags).branched = s.branched := by unfold State.restoreFlags; split <;> rfl
@[simp] theorem State.restoreFlags_bus : (s.restoreFlags).bus = s.bus := by unfold State.restoreFlags; split <;> rfl
@[simp] theorem State.restoreFlags_policy : (s.restoreFlags).policy = s.policy := by unfold State.restoreFlags; split <;> rfl
@[simp] theorem State.restoreFlags_busLog : (s.restoreFlags).busLog = s.busLog := by unfold State.restoreFlags; split <;> rfl
@[simp] theorem State.restoreFlags_draws : (s.restoreFlags).draws = s.draws := by unfold State.restoreFlags; split <;> rfl

/-! ### portRead -/

@[simp] theorem State.portRead_regs (a : Word) : (s.portRead a).regs = s.regs := rfl
@[simp] theorem State.portRead_cpsr (a : Word) : (s.portRead a).cpsr = s.cpsr := rfl
@[simp] theorem State.portRead_spsr (a : Word) : (s.portRead a).spsr = s.spsr := rfl
@[simp] theorem State.portRead_fetched (a : Word) : (s.portRead a).fetched = s.fetched := rfl
@[simp] theorem State.portRead_decoded (a : Word) : (s.portRead a).decoded = s.decoded := rfl
@[simp] theorem State.portRead_halted (a : Word) : (s.portRead a).halted = s.halted := rfl
@[simp] theorem State.portRead_branched (a : Word) : (s.portRead a).branched = s.branched := rfl
@[simp] theorem State.portRead_bus (a : Word) : (s.portRead a).bus = s.bus.afterRead a := rfl
@[simp] theorem State.portRead_policy (a : Word) : (s.portRead a).policy = s.policy := rfl
@[simp] theorem State.portRead_busLog (a : Word) : (s.portRead a).busLog = .read a (s.bus.read a) :: s.busLog := rfl
@[simp] theorem State.portRead_draws (a : Word) : (s.portRead a).draws = s.draws := rfl

/-! ### portWrite -/

@[simp] theorem State.portWrite_regs (a v : Word) : (s.portWrite a v).regs = s.regs := rfl
@[simp] theorem State.portWrite_cpsr (a v : Word) : (s.portWrite a v).cpsr = s.cpsr := rfl
@[simp] theorem State.portWrite_spsr (a v : Word) : (s.portWrite a v).spsr = s.spsr := rfl
@[simp] theorem State.portWrite_fetched (a v : Word) : (s.portWrite a v).fetched = s.fetched := rfl
@[simp] theorem State.portWrite_decoded (a v : Word) : (s.portWrite a v).decoded = s.decoded := rfl
@[simp] theorem State.portWrite_halted (a v : Word) : (s.portWrite a v).halted = s.halted := rfl
@[simp] theorem State.portWrite_branched (a v : Word) : (s.portWrite a v).branched = s.branched := rfl
@[simp] theorem State.portWrite_bus (a v : Word) : (s.portWrite a v).bus = s.bus.afterWrite a v := rfl
@[simp] theorem State.portWrite_policy (a v : Word) : (s.portWrite a v).policy = s.policy := rfl
@[simp] theorem State.portWrite_busLog (a v : Word) : (s.portWrite a v).busLog = .write a v (s.bus.accepts a v) :: s.busLog := rfl
@[simp] theorem State.portWrite_draws (a v : Word) : (s.portWrite a v).draws = s.draws := rfl

/-! ### fetch -/

@[simp] theorem State.fetch_regs (a : Word) : (s.fetch a).regs = s.regs := rfl
@[simp] theorem State.fetch_cpsr (a : Word) : (s.fetch a).cpsr = s.cpsr := rfl
@[simp] theorem State.fetch_spsr (a : Word) : (s.fetch a).spsr = s.spsr := rfl
@[simp] theorem State.fetch_fetched (a : Word) : (s.fetch a).fetched =
    match s.bus.read a with
      | some w => .word w
      | none => .fetchFault a := rfl
@[simp] theorem State.fetch_decoded (a : Word) : (s.fetch a).decoded = s.decoded := rfl
@[simp] theorem State.fetch_halted (a : Word) : (s.fetch a).halted = s.halted := rfl
@[simp] theorem State.fetch_branched (a : Word) : (s.fetch a).branched = s.branched := rfl
@[simp] theorem State.fetch_bus (a : Word) : (s.fetch a).bus = s.bus.afterRead a := rfl
@[simp] theorem State.fetch_policy (a : Word) : (s.fetch a).policy = s.policy := rfl
@[simp] theorem State.fetch_busLog (a : Word) : (s.fetch a).busLog = .read a (s.bus.read a) :: s.busLog := rfl
@[simp] theorem State.fetch_draws (a : Word) : (s.fetch a).draws = s.draws := rfl

end Sys2Proof.Machine
end

