-- ==== Sys2Proof/Laws/Memory.lean ====
section
/-! SUPPORT. Memory: what a write leaves at each address, and that every operation keeps the canonical
form. -/

namespace Sys2Proof.Machine

namespace Memory

/-! ### Bytes -/

theorem readByte_insertByte (m : Memory) (a b : Nat) (v : Byte) :
    readByte (insertByte m a v) b = if b = a then v else readByte m b := by
  induction m with
  | nil => simp [insertByte, readByte]
  | cons c m ih =>
    obtain ⟨c, w⟩ := c
    unfold insertByte
    split
    · simp [readByte]
    · split
      · next h => subst h; by_cases hb : b = a <;> simp [readByte, hb]
      · next h =>
        by_cases hc : b = c
        · subst hc
          have : b ≠ a := fun h' => h h'.symm
          simp [readByte, this]
        · simp [readByte, hc, ih]

theorem readByte_eraseByte (m : Memory) (a b : Nat) :
    readByte (eraseByte m a) b = if b = a then unlistedByte else readByte m b := by
  induction m with
  | nil => simp [eraseByte, readByte]
  | cons c m ih =>
    obtain ⟨c, w⟩ := c
    unfold eraseByte at ih ⊢
    by_cases hc : c = a
    · subst hc
      by_cases hb : b = c
      · subst hb; simpa [readByte] using ih
      · simpa [readByte, hb] using ih
    · by_cases hb : b = c
      · subst hb; simp [readByte, hc]
      · simpa [readByte, hc, hb] using ih

/-- A byte reads as it was last written, and a write leaves every other address alone. -/
theorem readByte_writeByte (m : Memory) (a b : Nat) (v : Byte) :
    readByte (writeByte m a v) b = if b = a then v else readByte m b := by
  unfold writeByte
  split
  · next h => rw [readByte_eraseByte, h]
  · exact readByte_insertByte m a b v

/-! ### The canonical form -/

theorem wfFrom_mono {lo lo' : Nat} (h : lo ≤ lo') : ∀ {m : Memory}, wfFrom lo' m = true → wfFrom lo m = true
  | [], _ => rfl
  | (a, v) :: m, hm => by
    simp only [wfFrom, Bool.and_eq_true, decide_eq_true_eq] at hm ⊢
    exact ⟨⟨⟨Nat.le_trans h hm.1.1.1, hm.1.1.2⟩, hm.1.2⟩, hm.2⟩

theorem wfFrom_insertByte {v : Byte} (hv : v ≠ unlistedByte) {a : Nat} (ha : a < 2 ^ 32) :
    ∀ {m : Memory} {lo : Nat}, lo ≤ a → wfFrom lo m = true → wfFrom lo (insertByte m a v) = true
  | [], lo, hlo, _ => by
    simp only [insertByte, wfFrom, Bool.and_eq_true, decide_eq_true_eq, bne_iff_ne, ne_eq, and_true]
    exact ⟨⟨hlo, ha⟩, hv⟩
  | (b, w) :: m, lo, hlo, hm => by
    simp only [wfFrom, Bool.and_eq_true, decide_eq_true_eq, bne_iff_ne, ne_eq] at hm
    unfold insertByte
    split
    · next hab =>
      simp only [wfFrom, Bool.and_eq_true, decide_eq_true_eq, bne_iff_ne, ne_eq]
      exact ⟨⟨⟨hlo, ha⟩, hv⟩, ⟨⟨by omega, hm.1.1.2⟩, hm.1.2⟩, hm.2⟩
    · split
      · next hab =>
        subst hab
        simp only [wfFrom, Bool.and_eq_true, decide_eq_true_eq, bne_iff_ne, ne_eq]
        exact ⟨⟨⟨hlo, ha⟩, hv⟩, hm.2⟩
      · simp only [wfFrom, Bool.and_eq_true, decide_eq_true_eq, bne_iff_ne, ne_eq]
        exact ⟨hm.1, wfFrom_insertByte hv ha (by omega) hm.2⟩

theorem wfFrom_eraseByte (a : Nat) :
    ∀ {m : Memory} {lo : Nat}, wfFrom lo m = true → wfFrom lo (eraseByte m a) = true
  | [], _, _ => rfl
  | (b, w) :: m, lo, hm => by
    have hm' := hm
    simp only [wfFrom, Bool.and_eq_true, decide_eq_true_eq, bne_iff_ne, ne_eq] at hm
    have ih := wfFrom_eraseByte a hm.2
    unfold eraseByte at ih ⊢
    rw [List.filter_cons]
    split
    · simp only [wfFrom, Bool.and_eq_true, decide_eq_true_eq, bne_iff_ne, ne_eq]
      exact ⟨hm.1, ih⟩
    · exact wfFrom_mono (by omega) ih

/-- A write of a byte keeps the canonical form. -/
theorem wf_writeByte {m : Memory} (h : m.wf = true) {a : Nat} (ha : a < 2 ^ 32) (v : Byte) :
    (m.writeByte a v).wf = true := by
  unfold Memory.wf writeByte at *
  split
  · exact wfFrom_eraseByte a h
  · next hv => exact wfFrom_insertByte hv ha (Nat.zero_le a) h

/-- Memory at reset is in canonical form. -/
theorem wf_reset : State.reset.bus.mem.wf = true := rfl

theorem byteAddress_lt (t : Word) (k : Nat) : byteAddress t k < 2 ^ 32 := (t + BitVec.ofNat 32 k).isLt

/-- A write of a word keeps the canonical form. -/
theorem wf_writeWord {m : Memory} (h : m.wf = true) (o : ByteOrder) (t v : Word) :
    (m.writeWord o t v).wf = true := by
  unfold writeWord
  exact wf_writeByte (wf_writeByte (wf_writeByte (wf_writeByte h (byteAddress_lt _ _) _)
    (byteAddress_lt _ _) _) (byteAddress_lt _ _) _) (byteAddress_lt _ _) _

/-! ### Words -/

/-- The four bytes of a word stand at four different addresses. -/
theorem byteAddress_inj (t : Word) {j k : Nat} (hj : j < 4) (hk : k < 4)
    (h : byteAddress t j = byteAddress t k) : j = k := by
  unfold byteAddress at h
  have h' := BitVec.eq_of_toNat_eq h
  have h'' : BitVec.ofNat 32 j = BitVec.ofNat 32 k := by
    have := congrArg (fun x => x - t) h'
    simpa [BitVec.add_comm] using this
  have := congrArg BitVec.toNat h''
  simp only [BitVec.toNat_ofNat] at this
  omega

/-- What a write of a word leaves at each address. -/
theorem readByte_writeWord (m : Memory) (o : ByteOrder) (t v : Word) (n : Nat) :
    readByte (m.writeWord o t v) n =
      if n = byteAddress t 3 then o.byteOf v 3
      else if n = byteAddress t 2 then o.byteOf v 2
      else if n = byteAddress t 1 then o.byteOf v 1
      else if n = byteAddress t 0 then o.byteOf v 0
      else readByte m n := by
  simp only [writeWord, readByte_writeByte]

/-- A write of a word leaves every byte outside it alone. -/
theorem readByte_writeWord_outside (m : Memory) (o : ByteOrder) (t v : Word) {n : Nat}
    (h : ∀ k < 4, n ≠ byteAddress t k) : readByte (m.writeWord o t v) n = readByte m n := by
  rw [readByte_writeWord, if_neg (h 3 (by omega)), if_neg (h 2 (by omega)), if_neg (h 1 (by omega)),
    if_neg (h 0 (by omega))]

/-- The bytes of a word put together again are the word (20_memory.md R68). -/
theorem wordOf_byteOf (o : ByteOrder) (v : Word) :
    o.wordOf (o.byteOf v 0) (o.byteOf v 1) (o.byteOf v 2) (o.byteOf v 3) = v := by
  cases o <;>
    (apply BitVec.eq_of_getLsbD_eq
     intro i hi
     simp only [ByteOrder.wordOf, ByteOrder.byteOf, BitVec.getLsbD_append, BitVec.getLsbD_extractLsb']
     interval_cases i <;> simp)

/-- A word reads back as written. -/
theorem readWord_writeWord (m : Memory) (o : ByteOrder) (t v : Word) :
    (m.writeWord o t v).readWord o t = v := by
  have ne : ∀ {j k : Nat}, j < 4 → k < 4 → j ≠ k → byteAddress t j ≠ byteAddress t k :=
    fun hj hk hjk h => hjk (byteAddress_inj t hj hk h)
  have h0 : readByte (m.writeWord o t v) (byteAddress t 0) = o.byteOf v 0 := by
    rw [readByte_writeWord, if_neg (ne (by omega) (by omega) (by omega)),
      if_neg (ne (by omega) (by omega) (by omega)), if_neg (ne (by omega) (by omega) (by omega)), if_pos rfl]
  have h1 : readByte (m.writeWord o t v) (byteAddress t 1) = o.byteOf v 1 := by
    rw [readByte_writeWord, if_neg (ne (by omega) (by omega) (by omega)),
      if_neg (ne (by omega) (by omega) (by omega)), if_pos rfl]
  have h2 : readByte (m.writeWord o t v) (byteAddress t 2) = o.byteOf v 2 := by
    rw [readByte_writeWord, if_neg (ne (by omega) (by omega) (by omega)), if_pos rfl]
  have h3 : readByte (m.writeWord o t v) (byteAddress t 3) = o.byteOf v 3 := by
    rw [readByte_writeWord, if_pos rfl]
  rw [readWord, h0, h1, h2, h3, wordOf_byteOf]

/-- A word none of whose bytes the write reaches reads as before. -/
theorem readWord_writeWord_apart (m : Memory) (o : ByteOrder) (t v u : Word)
    (h : ∀ j < 4, ∀ k < 4, byteAddress u j ≠ byteAddress t k) :
    (m.writeWord o t v).readWord o u = m.readWord o u := by
  unfold readWord
  rw [readByte_writeWord_outside m o t v (h 0 (by omega)), readByte_writeWord_outside m o t v (h 1 (by omega)),
    readByte_writeWord_outside m o t v (h 2 (by omega)), readByte_writeWord_outside m o t v (h 3 (by omega))]

end Memory

/-! ### The bus -/

theorem Bus.within_mono {b : Bus} {p q : WindowKind → Bool} (h : ∀ k, p k = true → q k = true) {n : Nat}
    (hn : b.within p n = true) : b.within q n = true := by
  simp only [Bus.within, List.any_eq_true, Bool.and_eq_true] at hn ⊢
  obtain ⟨w, hw, hp, hh⟩ := hn
  exact ⟨w, hw, h _ hp, hh⟩

theorem wordIn_mono {p q : Nat → Bool} (h : ∀ n, p n = true → q n = true) {t : Word}
    (ht : wordIn p t = true) : wordIn q t = true := by
  simp only [wordIn, Bool.and_eq_true] at ht ⊢
  exact ⟨⟨⟨h _ ht.1.1.1, h _ ht.1.1.2⟩, h _ ht.1.2⟩, h _ ht.2⟩

/-! Only the mapping decides what is a device's, what an address means, and what plain memory keeps. -/

@[simp] theorem MappingKept.refl (b : Bus) : MappingKept b b := rfl

theorem MappingKept.trans {b c d : Bus} (h : MappingKept b c) (h' : MappingKept c d) : MappingKept b d := by
  unfold MappingKept at *
  rw [h', h]

theorem MappingKept.device {b b' : Bus} (h : MappingKept b b') (a : Word) : b'.device a = b.device a := by
  rw [h]; rfl

theorem MappingKept.target {b b' : Bus} (h : MappingKept b b') (a : Word) : b'.target a = b.target a := by
  rw [h]; rfl

theorem MappingKept.storesAt {b b' : Bus} (h : MappingKept b b') (a : Word) : b'.storesAt a = b.storesAt a := by
  rw [h]; rfl

theorem MappingKept.byteOfWord {b b' : Bus} (h : MappingKept b b') (a : Word) (n : Nat) :
    ByteOfWord b' a n ↔ ByteOfWord b a n := by
  unfold ByteOfWord
  rw [h.target]

theorem MappingKept.accepts {b b' : Bus} (h : MappingKept b b') {a : Word} (hd : b.device a = false)
    (v v' : Word) : b'.accepts a v = b.accepts a v' := by
  rw [Bus.accepts, Bus.accepts, h.device, hd, h.target]
  rw [h]; rfl

/-- Where plain memory keeps a write: what the bus takes the address to mean, kept in every byte. -/
theorem Bus.storesAt_eq_some {b : Bus} {a t : Word} :
    b.storesAt a = some t ↔ b.device a = false ∧ b.target a = some t ∧ wordIn b.keepsByte t = true := by
  unfold Bus.storesAt
  cases b.device a with
  | true => simp
  | false =>
    cases b.target a with
    | none => simp
    | some u =>
      by_cases hk : wordIn b.keepsByte u = true
      · simp only [Bool.false_eq_true, if_false, hk, if_true, Option.some.injEq, true_and]
        exact ⟨fun h => ⟨h, h ▸ hk⟩, And.left⟩
      · simp only [Bool.false_eq_true, if_false, hk, Option.some.injEq, true_and, reduceCtorEq, false_iff]
        rintro ⟨rfl, h⟩
        exact hk h

/-- Away from devices a read leaves the bus alone. -/
@[simp] theorem Bus.afterRead_plain {b : Bus} {a : Word} (h : b.device a = false) : b.afterRead a = b := by
  simp [Bus.afterRead, h]

/-- Away from devices the bus answers from what plain memory holds. -/
theorem Bus.read_plain {b : Bus} {a w : Word} (h : b.device a = false) :
    b.read a = some w ↔ ∃ t, b.target a = some t ∧ wordIn b.mapped t = true ∧ w = b.mem.readWord b.order t := by
  unfold Bus.read
  rw [h]
  cases b.target a with
  | none => simp
  | some t =>
    by_cases hm : wordIn b.mapped t = true
    · simp only [Bool.false_eq_true, if_false, hm, if_true, Option.some.injEq, exists_eq_left', true_and]
      exact eq_comm
    · simp [hm]

/-- A write that plain memory keeps stores the word. -/
theorem Bus.afterWrite_kept {b : Bus} {a t : Word} (h : b.storesAt a = some t) (v : Word) :
    b.afterWrite a v = { b with mem := b.mem.writeWord b.order t v } := by
  rw [Bus.afterWrite, (Bus.storesAt_eq_some.mp h).1, h]
  rfl

/-- Away from devices a write that plain memory does not keep changes nothing. -/
theorem Bus.afterWrite_dropped {b : Bus} {a : Word} (hd : b.device a = false) (h : b.storesAt a = none)
    (v : Word) : b.afterWrite a v = b := by
  rw [Bus.afterWrite, hd, h]
  rfl

/-- A write that plain memory keeps is accepted. -/
theorem Bus.accepts_of_kept {b : Bus} {a t : Word} (h : b.storesAt a = some t) (v : Word) :
    b.accepts a v = true := by
  obtain ⟨hd, ht, hk⟩ := Bus.storesAt_eq_some.mp h
  rw [Bus.accepts, hd, ht]
  exact wordIn_mono (fun n => Bus.within_mono fun k => by cases k <;> decide) hk

/-- A write that plain memory keeps reads back through the same address (20_memory.md R61, R68). -/
theorem Bus.write_reads_back {b : Bus} {a t : Word} (h : b.storesAt a = some t) (v : Word) :
    (b.afterWrite a v).read a = some v := by
  obtain ⟨hd, ht, hk⟩ := Bus.storesAt_eq_some.mp h
  have hm : wordIn b.mapped t = true := wordIn_mono (fun n => Bus.within_mono fun k => by cases k <;> decide) hk
  rw [Bus.afterWrite_kept h]
  generalize hb : ({ b with mem := b.mem.writeWord b.order t v } : Bus) = b'
  have hmap : MappingKept b b' := by rw [← hb]; rfl
  refine (Bus.read_plain (hmap.device a ▸ hd)).mpr ⟨t, (hmap.target a).trans ht, ?_, ?_⟩
  · rw [hmap]; exact hm
  · rw [← hb]; exact (Memory.readWord_writeWord b.mem b.order t v).symm

theorem wf_deviceStores : ∀ (l : List (Word × Byte)) {m : Memory}, m.wf = true →
    (l.foldl (fun m c => m.writeByte c.1.toNat c.2) m).wf = true
  | [], _, h => h
  | c :: l, _, h => wf_deviceStores l (Memory.wf_writeByte h c.1.isLt c.2)

/-- An access leaves the mapping as it was, and memory in canonical form. -/
structure Bus.Moved (b b' : Bus) : Prop where
  mapping : MappingKept b b'
  memory : b.mem.wf = true → b'.mem.wf = true

theorem Bus.Moved.refl (b : Bus) : b.Moved b := ⟨rfl, id⟩

theorem Bus.Moved.trans {b c d : Bus} (h : b.Moved c) (h' : c.Moved d) : b.Moved d :=
  ⟨h.mapping.trans h'.mapping, fun hb => h'.memory (h.memory hb)⟩

theorem Bus.moved_asked (b : Bus) (r : PortRequest) : b.Moved (b.asked r) := ⟨rfl, wf_deviceStores _⟩

theorem Bus.moved_recorded (b : Bus) (r : PortRequest) : b.Moved (b.recorded r) := ⟨rfl, id⟩

theorem Bus.moved_afterRead (b : Bus) (a : Word) : b.Moved (b.afterRead a) := by
  unfold Bus.afterRead
  split
  · exact b.moved_asked _
  · exact .refl b

theorem Bus.moved_afterWrite (b : Bus) (a v : Word) : b.Moved (b.afterWrite a v) := by
  unfold Bus.afterWrite
  split
  · split
    · exact b.moved_asked _
    · exact b.moved_recorded _
  · split
    · exact ⟨rfl, fun h => Memory.wf_writeWord h _ _ _⟩
    · exact .refl b

/-- Away from devices a write changes nothing but memory. -/
theorem Bus.afterWrite_plain {b : Bus} {a : Word} (hd : b.device a = false) (v : Word) :
    b.afterWrite a v = { b with mem := (b.afterWrite a v).mem } := by
  cases h : b.storesAt a with
  | none => rw [Bus.afterWrite_dropped hd h]
  | some t => rw [Bus.afterWrite_kept h]

/-- Away from devices a write changes no byte outside the word its address means. -/
theorem Bus.afterWrite_outside {b : Bus} {a : Word} (hd : b.device a = false) (v : Word) {n : Nat}
    (hn : ¬ ByteOfWord b a n) : (b.afterWrite a v).mem.readByte n = b.mem.readByte n := by
  cases h : b.storesAt a with
  | none => rw [Bus.afterWrite_dropped hd h]
  | some t =>
    rw [Bus.afterWrite_kept h]
    exact Memory.readByte_writeWord_outside _ _ _ _ fun k hk he =>
      hn ⟨t, (Bus.storesAt_eq_some.mp h).2.1, k, hk, he⟩

/-- Away from devices a write that is not accepted changes nothing. -/
theorem Bus.afterWrite_refused {b : Bus} {a v : Word} (hd : b.device a = false) (h : b.accepts a v = false) :
    b.afterWrite a v = b := by
  cases hs : b.storesAt a with
  | none => exact Bus.afterWrite_dropped hd hs v
  | some t => rw [Bus.accepts_of_kept hs v] at h; cases h

/-- A write that is not accepted changes nothing but, at a device, the requests it has had
(44_single_data_transfer.md R227). -/
theorem Bus.afterWrite_faulted {b : Bus} {a v : Word} (h : b.accepts a v = false) :
    b.afterWrite a v = { b with requests := (b.afterWrite a v).requests } := by
  cases hd : b.device a with
  | false => rw [Bus.afterWrite_refused hd h]
  | true => simp [Bus.afterWrite, hd, h, Bus.recorded]

/-! ### The port -/

/-- Everything MemRead can do (20_memory.md R62, R67). -/
theorem State.memRead_cases (s : State) (a : Word) :
    (∃ w, s.bus.read a = some w ∧ s.memRead a = .done w (s.portRead a))
    ∨ (s.bus.read a = none ∧ s.policy = .halt
        ∧ s.memRead a = .halted ((s.portRead a).halt (.busFault a .read)))
    ∨ (s.bus.read a = none ∧ s.policy = .ignore ∧ s.memRead a = .done s.freeWord (s.portRead a).drawn) := by
  unfold State.memRead
  cases hr : s.bus.read a with
  | some w => exact .inl ⟨w, rfl, rfl⟩
  | none =>
    cases hp : s.policy with
    | halt => exact .inr (.inl ⟨rfl, rfl, rfl⟩)
    | ignore => exact .inr (.inr ⟨rfl, rfl, rfl⟩)

/-- Everything MemWrite can do (20_memory.md R63, R67). -/
theorem State.memWrite_cases (s : State) (a v : Word) :
    ((s.bus.accepts a v = true ∨ s.policy = .ignore) ∧ s.memWrite a v = .done () (s.portWrite a v))
    ∨ (s.bus.accepts a v = false ∧ s.policy = .halt
        ∧ s.memWrite a v = .halted ((s.portWrite a v).halt (.busFault a .write))) := by
  unfold State.memWrite
  cases hr : s.bus.accepts a v with
  | true => exact .inl ⟨.inl rfl, rfl⟩
  | false =>
    cases hp : s.policy with
    | halt => exact .inr ⟨rfl, rfl, rfl⟩
    | ignore => exact .inl ⟨.inr rfl, rfl⟩

end Sys2Proof.Machine
end

