-- ==== Sys2Proof/Laws/Registers.lean ====
section
/-! SUPPORT. The register file: banking is an indirection, and a write reaches one physical register. -/

namespace Sys2Proof.Machine

/-- A write reaches the register it names and no other (10_state.md R25). -/
theorem RegFile.get_set (f : RegFile) (p q : PhysReg) (v : Word) :
    (f.set p v).get q = if q = p then v else f.get q := by
  cases p <;> cases q <;>
    simp [RegFile.get, RegFile.set, Vector.getElem_set, Fin.ext_iff, eq_comm]

@[simp] theorem RegFile.get_set_same (f : RegFile) (p : PhysReg) (v : Word) : (f.set p v).get p = v := by
  simp [RegFile.get_set]

theorem RegFile.get_set_ne (f : RegFile) {p q : PhysReg} (v : Word) (h : q ≠ p) :
    (f.set p v).get q = f.get q := by simp [RegFile.get_set, h]

/-- Two register files with the same content in every physical register are the same. -/
theorem RegFile.ext_get {f g : RegFile} (h : ∀ p, f.get p = g.get p) : f = g := by
  obtain ⟨r, fiq, irq, svc, abt, und⟩ := f
  obtain ⟨r', fiq', irq', svc', abt', und'⟩ := g
  have hr : r = r' := Vector.ext fun i hi => h (.r ⟨i, hi⟩)
  have hfiq : fiq = fiq' := Vector.ext fun i hi => h (.fiq ⟨i, hi⟩)
  have hirq : irq = irq' := Vector.ext fun i hi => h (.irq ⟨i, hi⟩)
  have hsvc : svc = svc' := Vector.ext fun i hi => h (.svc ⟨i, hi⟩)
  have habt : abt = abt' := Vector.ext fun i hi => h (.abt ⟨i, hi⟩)
  have hund : und = und' := Vector.ext fun i hi => h (.und ⟨i, hi⟩)
  subst hr hfiq hirq hsvc habt hund
  rfl

/-- Writing a register's own content changes nothing. -/
theorem RegFile.set_get (f : RegFile) (p : PhysReg) : f.set p (f.get p) = f := by
  apply RegFile.ext_get
  intro q
  rw [RegFile.get_set]
  split
  · next h => rw [h]
  · rfl

@[simp] theorem RegFile.zero_get (p : PhysReg) : RegFile.zero.get p = 0 := by
  cases p <;> simp [RegFile.get, RegFile.zero]

/-- Within one mode, two logical indices never share a physical register (10_state.md R23). -/
theorem phys_injective (m : Mode) {i j : Reg} (h : phys m i = phys m j) : i = j := by
  revert h
  cases m <;> revert i j <;> decide

@[simp] theorem phys_eq_iff (m : Mode) (i j : Reg) : phys m i = phys m j ↔ i = j :=
  ⟨phys_injective m, fun h => h ▸ rfl⟩

/-- The program counter is never banked (10_state.md R23). -/
@[simp] theorem phys_pc (m : Mode) : phys m 15 = .r 15 := by cases m <;> rfl

@[simp] theorem phys_eq_pc_iff (m : Mode) (i : Reg) : phys m i = .r 15 ↔ i = 15 := by
  rw [← phys_pc m, phys_eq_iff]

@[simp] theorem State.getReg_pc (s : State) : s.getReg 15 = s.pc := by
  rw [State.getReg, State.pc, phys_pc]

theorem State.getReg_writeReg (s : State) (i j : Reg) (v : Word) :
    (s.writeReg i v).getReg j = if j = i then v else s.getReg j := by
  simp [State.getReg, RegFile.get_set]

theorem State.pc_writeReg (s : State) (i : Reg) (v : Word) :
    (s.writeReg i v).pc = if i = 15 then v else s.pc := by
  rw [← State.getReg_pc, State.getReg_writeReg, State.getReg_pc]
  simp [eq_comm]

theorem State.regs_writeReg (s : State) (i : Reg) (v : Word) (p : PhysReg) :
    (s.writeReg i v).regs.get p = if p = phys s.cpsr.mode i then v else s.regs.get p := by
  simp [RegFile.get_set]

/-- A write of a register that is not r15 does not set `branched`. -/
theorem State.writeReg_of_ne {i : Reg} (h : i ≠ 15) (s : State) (v : Word) : s.writeReg i v = s.setReg i v :=
  if_neg h

/-- A write of r15 sets `branched` (10_state.md R25, 40_step_pipeline_condition.md R134). -/
theorem State.writeReg_pc (s : State) (v : Word) :
    s.writeReg 15 v = { s with regs := s.regs.set (.r 15) v, branched := true } := by
  rw [State.writeReg, if_pos rfl, State.setReg, phys_pc]

@[simp] theorem State.pc_setPc (s : State) (v : Word) : (s.setPc v).pc = v := by simp [State.pc]

/-- A slot exists in exactly the five modes that are neither User nor System (10_state.md R32). -/
theorem SpsrFile.slot_isNone (f : SpsrFile) (m : Mode) : f.slot m = none ↔ m = .usr ∨ m = .sys := by
  cases m <;> simp [SpsrFile.slot]

theorem SpsrFile.slot_setSlot (f : SpsrFile) (m m' : Mode) (w : Word) :
    (f.setSlot m w).slot m' = if m' = m then (f.slot m).map fun _ => w else f.slot m' := by
  cases m <;> cases m' <;> rfl

@[simp] theorem Cpsr.restore_mode (p : Cpsr) (w : Word) : (p.restore w).mode = p.mode := rfl

@[simp] theorem Cpsr.restore_res (p : Cpsr) (w : Word) : (p.restore w).res = p.res := rfl

@[simp] theorem Cpsr.withFlags_mode (p : Cpsr) (o : AluOut) : (p.withFlags o).mode = p.mode := rfl

/-- RestoreFlags never changes the mode (10_state.md R41). -/
@[simp] theorem State.restoreFlags_mode (s : State) : s.restoreFlags.cpsr.mode = s.cpsr.mode := by
  unfold State.restoreFlags
  split <;> rfl

end Sys2Proof.Machine
end

