-- ==== Sys2Proof/Laws/Exec.lean ====
section
/-! SUPPORT. What executing an instruction comes to: the families as functions of their fields, the shape
of every instruction's effect, and what the transfers of a block do. -/

namespace Sys2Proof.Machine

/-! ### Conditions -/

theorem conditionally_pass {c : Cond} {s : State} (h : conditionPasses c s.cpsr = true) (k : State → State) :
    conditionally c k s = k s := by simp [conditionally, h]

theorem conditionally_fail {c : Cond} {s : State} (h : conditionPasses c s.cpsr = false)
    (k : State → State) : conditionally c k s = s := by simp [conditionally, h]

/-- An effect that leaves `P` true when it happens leaves it true when the condition fails. -/
theorem conditionally_induction {P : State → Prop} {c : Cond} {k : State → State} {s : State} (hs : P s)
    (hk : P (k s)) : P (conditionally c k s) := by
  unfold conditionally
  split
  · exact hk
  · exact hs

/-! ### Families -/

@[simp] theorem dataInstr_cond (op : Opcode) (c : Cond) (sf : Bool) (rn rd : Reg) (o : Operand2) :
    (dataInstr op c sf rn rd o).cond = c := by cases op <;> cases o <;> rfl

@[simp] theorem dataInstr_cls (op : Opcode) (c : Cond) (sf : Bool) (rn rd : Reg) (o : Operand2) :
    (dataInstr op c sf rn rd o).cls = .dataProcess := by cases op <;> cases o <;> rfl

theorem exec_dataInstr (op : Opcode) (c : Cond) (sf : Bool) (rn rd : Reg) (o : Operand2) (s : State) :
    exec (dataInstr op c sf rn rd o) s =
      .next (dataProcess op c (sBit op sf) rn rd o (encode (dataInstr op c sf rn rd o)) s) := by
  cases op <;> cases o <;> cases sf <;> rfl

@[simp] theorem singleInstr_cond (c : Cond) (t : SingleTransfer) : (singleInstr c t).cond = c := by
  obtain ⟨p, u, b, w, l, rn, rd, off⟩ := t
  cases p <;> cases w <;> cases b <;> cases l <;> rfl

@[simp] theorem singleInstr_cls (c : Cond) (t : SingleTransfer) :
    (singleInstr c t).cls = .singleDataTransfer := by
  obtain ⟨p, u, b, w, l, rn, rd, off⟩ := t
  cases p <;> cases w <;> cases b <;> cases l <;> rfl

@[simp] theorem singleInstr_wf (c : Cond) (t : SingleTransfer) : (singleInstr c t).wf = true := by
  obtain ⟨p, u, b, w, l, rn, rd, off⟩ := t
  cases p <;> cases w <;> cases b <;> cases l <;> rfl

theorem exec_singleInstr (c : Cond) (t : SingleTransfer) (s : State) :
    exec (singleInstr c t) s = .next (singleTransfer c t (encode (singleInstr c t)) s) := by
  obtain ⟨p, u, b, w, l, rn, rd, off⟩ := t
  cases p <;> cases w <;> cases b <;> cases l <;> rfl

@[simp] theorem blockInstr_cond (c : Cond) (t : BlockTransfer) : (blockInstr c t).cond = c := by
  obtain ⟨p, u, sb, w, l, rn, list⟩ := t
  cases p <;> cases u <;> cases l <;> rfl

@[simp] theorem blockInstr_cls (c : Cond) (t : BlockTransfer) : (blockInstr c t).cls = .blockDataTransfer := by
  obtain ⟨p, u, sb, w, l, rn, list⟩ := t
  cases p <;> cases u <;> cases l <;> rfl

theorem exec_blockInstr (c : Cond) (t : BlockTransfer) (s : State) :
    exec (blockInstr c t) s = .next (blockTransfer c t (encode (blockInstr c t)) s) := by
  obtain ⟨p, u, sb, w, l, rn, list⟩ := t
  cases p <;> cases u <;> cases l <;> rfl

/-- Everything executing an instruction can be: one of five shared operations, each under the instruction's
own condition and with its own word (40_step_pipeline_condition.md R136). -/
theorem exec_cases (i : Instr) :
    (∃ op sf rn rd o, i.cls = .dataProcess ∧
      ∀ s, exec i s = .next (dataProcess op i.cond sf rn rd o (encode i) s))
    ∨ (∃ link off, i.cls = .branch ∧ ∀ s, exec i s = .next (branch i.cond link off s))
    ∨ (∃ t, i.cls = .singleDataTransfer ∧ ∀ s, exec i s = .next (singleTransfer i.cond t (encode i) s))
    ∨ (∃ t, i.cls = .blockDataTransfer ∧ ∀ s, exec i s = .next (blockTransfer i.cond t (encode i) s))
    ∨ (i.cls.executed = false ∧ ∀ s, exec i s = .next (unexecuted i s)) := by
  cases i
  case b c off => exact .inr (.inl ⟨false, off, rfl, fun _ => rfl⟩)
  case bl c off => exact .inr (.inl ⟨true, off, rfl, fun _ => rfl⟩)
  case ldrt c u rn rd off =>
    exact .inr (.inr (.inl ⟨⟨false, u, false, true, true, rn, rd, off⟩, rfl, fun _ => rfl⟩))
  case strt c u rn rd off =>
    exact .inr (.inr (.inl ⟨⟨false, u, false, true, false, rn, rd, off⟩, rfl, fun _ => rfl⟩))
  case ldrbt c u rn rd off =>
    exact .inr (.inr (.inl ⟨⟨false, u, true, true, true, rn, rd, off⟩, rfl, fun _ => rfl⟩))
  case strbt c u rn rd off =>
    exact .inr (.inr (.inl ⟨⟨false, u, true, true, false, rn, rd, off⟩, rfl, fun _ => rfl⟩))
  case ldr c p u w rn rd off =>
    exact .inr (.inr (.inl ⟨⟨p, u, false, w, true, rn, rd, off⟩, rfl, fun _ => rfl⟩))
  case str c p u w rn rd off =>
    exact .inr (.inr (.inl ⟨⟨p, u, false, w, false, rn, rd, off⟩, rfl, fun _ => rfl⟩))
  case ldrb c p u w rn rd off =>
    exact .inr (.inr (.inl ⟨⟨p, u, true, w, true, rn, rd, off⟩, rfl, fun _ => rfl⟩))
  case strb c p u w rn rd off =>
    exact .inr (.inr (.inl ⟨⟨p, u, true, w, false, rn, rd, off⟩, rfl, fun _ => rfl⟩))
  case ldmia c sb w rn list =>
    exact .inr (.inr (.inr (.inl ⟨⟨false, true, sb, w, true, rn, list⟩, rfl, fun _ => rfl⟩)))
  case ldmib c sb w rn list =>
    exact .inr (.inr (.inr (.inl ⟨⟨true, true, sb, w, true, rn, list⟩, rfl, fun _ => rfl⟩)))
  case ldmda c sb w rn list =>
    exact .inr (.inr (.inr (.inl ⟨⟨false, false, sb, w, true, rn, list⟩, rfl, fun _ => rfl⟩)))
  case ldmdb c sb w rn list =>
    exact .inr (.inr (.inr (.inl ⟨⟨true, false, sb, w, true, rn, list⟩, rfl, fun _ => rfl⟩)))
  case stmia c sb w rn list =>
    exact .inr (.inr (.inr (.inl ⟨⟨false, true, sb, w, false, rn, list⟩, rfl, fun _ => rfl⟩)))
  case stmib c sb w rn list =>
    exact .inr (.inr (.inr (.inl ⟨⟨true, true, sb, w, false, rn, list⟩, rfl, fun _ => rfl⟩)))
  case stmda c sb w rn list =>
    exact .inr (.inr (.inr (.inl ⟨⟨false, false, sb, w, false, rn, list⟩, rfl, fun _ => rfl⟩)))
  case stmdb c sb w rn list =>
    exact .inr (.inr (.inr (.inl ⟨⟨true, false, sb, w, false, rn, list⟩, rfl, fun _ => rfl⟩)))
  all_goals first
    | exact .inl ⟨_, _, _, _, _, rfl, fun _ => rfl⟩
    | exact .inr (.inr (.inr (.inr ⟨rfl, fun _ => rfl⟩)))

/-- The unexecuted classes have one effect (46_unexecuted_classes.md R250). -/
theorem exec_unexecuted {i : Instr} (h : i.cls.executed = false) (s : State) :
    exec i s = .next (unexecuted i s) := by
  obtain ⟨_, _, _, _, _, hc, _⟩ | ⟨_, _, hc, _⟩ | ⟨_, hc, _⟩ | ⟨_, hc, _⟩ | ⟨_, he⟩ := exec_cases i
  · rw [hc] at h; cases h
  · rw [hc] at h; cases h
  · rw [hc] at h; cases h
  · rw [hc] at h; cases h
  · exact he s

/-- No instruction ends in a fault or a refusal (log 10). -/
theorem exec_next (i : Instr) (s : State) : ∃ t, exec i s = .next t := by
  obtain ⟨_, _, _, _, _, _, he⟩ | ⟨_, _, _, he⟩ | ⟨_, _, he⟩ | ⟨_, _, he⟩ | ⟨_, he⟩ := exec_cases i <;>
    exact ⟨_, he s⟩

/-! ### What an instruction never touches -/

/-- Q, I, F and T, the fields no flag computation writes. -/
def Cpsr.storage (p : Cpsr) : Bool × Bool × Bool × Bool := (p.q, p.i, p.f, p.t)

/-- The mode, the SPSRs, RES, the slots, the policy and the bus's mapping are as they were (10_state.md R32,
60_exceptions.md R293); memory keeps its form; Q, I, F and T are as they were or those of the active SPSR (R41). -/
structure CoreKept (s t : State) : Prop where
  mode : t.cpsr.mode = s.cpsr.mode
  res : t.cpsr.res = s.cpsr.res
  spsr : t.spsr = s.spsr
  fetched : t.fetched = s.fetched
  decoded : t.decoded = s.decoded
  policy : t.policy = s.policy
  bus : s.bus.Moved t.bus
  storage : t.cpsr.storage = s.cpsr.storage ∨
    ∃ w, s.spsr.slot s.cpsr.mode = some w ∧ t.cpsr.storage = (s.cpsr.restore w).storage

theorem CoreKept.refl (s : State) : CoreKept s s := ⟨rfl, rfl, rfl, rfl, rfl, rfl, .refl _, .inl rfl⟩

theorem CoreKept.trans {s t u : State} (h : CoreKept s t) (h' : CoreKept t u) : CoreKept s u :=
  ⟨h'.mode.trans h.mode, h'.res.trans h.res, h'.spsr.trans h.spsr, h'.fetched.trans h.fetched,
    h'.decoded.trans h.decoded, h'.policy.trans h.policy, h.bus.trans h'.bus, by
      obtain h2 | ⟨w, hw, h2⟩ := h'.storage
      · rw [h2]; exact h.storage
      · exact .inr ⟨w, by rw [← h.spsr, ← h.mode]; exact hw, h2⟩⟩

/-- Nothing that CoreKept speaks of but the bus has changed. -/
theorem CoreKept.of_eq {s t : State} (h : t.cpsr.mode = s.cpsr.mode ∧ t.cpsr.res = s.cpsr.res ∧
    t.cpsr.storage = s.cpsr.storage ∧ t.spsr = s.spsr ∧ t.fetched = s.fetched ∧ t.decoded = s.decoded ∧
    t.policy = s.policy) (hb : s.bus.Moved t.bus) : CoreKept s t :=
  ⟨h.1, h.2.1, h.2.2.2.1, h.2.2.2.2.1, h.2.2.2.2.2.1, h.2.2.2.2.2.2, hb, .inl h.2.2.1⟩

theorem coreKept_writeReg (s : State) (i : Reg) (v : Word) : CoreKept s (s.writeReg i v) :=
  .of_eq (by simp) (by simp [Bus.Moved.refl])

theorem coreKept_halt (s : State) (r : HaltReason) : CoreKept s (s.halt r) :=
  .of_eq ⟨rfl, rfl, rfl, rfl, rfl, rfl, rfl⟩ (.refl _)

theorem coreKept_setFlags (s : State) (o : AluOut) : CoreKept s (s.setFlags o) :=
  .of_eq ⟨rfl, rfl, rfl, rfl, rfl, rfl, rfl⟩ (.refl _)

theorem coreKept_restoreFlags (s : State) : CoreKept s s.restoreFlags := by
  unfold State.restoreFlags
  split
  · exact ⟨rfl, rfl, rfl, rfl, rfl, rfl, .refl _, .inr ⟨_, ‹_›, rfl⟩⟩
  · exact .refl s

/-- What an access leaves unchanged, whether it goes on or halts. -/
def Access.Keeps {α : Type} (s : State) : Access α → Prop
  | .done _ t => CoreKept s t
  | .halted t => CoreKept s t

theorem coreKept_portRead (s : State) (a : Word) : CoreKept s (s.portRead a) :=
  .of_eq ⟨rfl, rfl, rfl, rfl, rfl, rfl, rfl⟩ (s.bus.moved_afterRead a)

theorem coreKept_portWrite (s : State) (a v : Word) : CoreKept s (s.portWrite a v) :=
  .of_eq ⟨rfl, rfl, rfl, rfl, rfl, rfl, rfl⟩ (s.bus.moved_afterWrite a v)

theorem keeps_memRead (s : State) (a : Word) : (s.memRead a).Keeps s := by
  have h := coreKept_portRead s a
  obtain ⟨w, _, he⟩ | ⟨_, _, he⟩ | ⟨_, _, he⟩ := s.memRead_cases a <;> rw [he]
  · exact h
  · exact h.trans (coreKept_halt _ _)
  · exact h.trans (.of_eq ⟨rfl, rfl, rfl, rfl, rfl, rfl, rfl⟩ (.refl _))

theorem keeps_memWrite (s : State) (a v : Word) : (s.memWrite a v).Keeps s := by
  have h := coreKept_portWrite s a v
  obtain ⟨_, he⟩ | ⟨_, _, he⟩ := s.memWrite_cases a v <;> rw [he]
  · exact h
  · exact h.trans (coreKept_halt _ _)

theorem Access.Keeps.andThen {α : Type} {s : State} {x : Access α} (h : x.Keeps s) {k : α → State → State}
    (hk : ∀ a t, CoreKept t (k a t)) : CoreKept s (x.andThen k) := by
  cases x with
  | done a t => exact CoreKept.trans h (hk a t)
  | halted t => exact h

theorem keeps_loadRegisters : ∀ (is : List Reg) (a : Word) (s : State), (loadRegisters is a s).Keeps s
  | [], _, s => CoreKept.refl s
  | i :: is, a, s => by
    have h := keeps_memRead s a
    unfold loadRegisters
    cases hr : s.memRead a with
    | halted t => rw [hr] at h; exact h
    | done v t =>
      rw [hr] at h
      have ih := keeps_loadRegisters is (a + 4) (t.writeReg i v)
      have ht : CoreKept s (t.writeReg i v) := CoreKept.trans h (coreKept_writeReg t i v)
      revert ih
      simp only
      cases loadRegisters is (a + 4) (t.writeReg i v) <;> exact fun ih => ht.trans ih

theorem keeps_storeRegisters : ∀ (is : List Reg) (a : Word) (s : State), (storeRegisters is a s).Keeps s
  | [], _, s => CoreKept.refl s
  | i :: is, a, s => by
    have h := keeps_memWrite s a (s.getReg i)
    unfold storeRegisters
    cases hr : s.memWrite a (s.getReg i) with
    | halted t => rw [hr] at h; exact h
    | done v t =>
      rw [hr] at h
      have ih := keeps_storeRegisters is (a + 4) t
      revert ih
      simp only
      cases storeRegisters is (a + 4) t <;> exact fun ih => CoreKept.trans h ih

theorem coreKept_dataProcess (op : Opcode) (c : Cond) (sf : Bool) (rn rd : Reg) (o : Operand2) (raw : Word)
    (s : State) : CoreKept s (dataProcess op c sf rn rd o raw s) := by
  refine conditionally_induction (.refl s) ?_
  simp only
  split
  · exact coreKept_halt s _
  · have hd : CoreKept s (writeDestination op rd (dataProcessOut op rn o s) s) := by
      unfold writeDestination
      split
      · exact .refl s
      · exact coreKept_writeReg s _ _
    refine hd.trans ?_
    unfold writeFlags
    split
    · split
      · exact coreKept_restoreFlags _
      · exact coreKept_setFlags _ _
    · exact .refl _

theorem coreKept_branch (c : Cond) (link : Bool) (off : BitVec 24) (s : State) :
    CoreKept s (branch c link off s) := by
  refine conditionally_induction (.refl s) ?_
  cases link
  · exact coreKept_writeReg s _ _
  · exact (coreKept_writeReg s 14 (s.getReg 15 - 4)).trans (coreKept_writeReg _ _ _)

theorem coreKept_singleTransfer (c : Cond) (t : SingleTransfer) (raw : Word) (s : State) :
    CoreKept s (singleTransfer c t raw s) := by
  have hb : ∀ v u, CoreKept u (t.updateBase v u) := fun v u => by
    unfold SingleTransfer.updateBase
    split
    · exact coreKept_writeReg _ _ _
    · exact .refl u
  refine conditionally_induction (.refl s) ?_
  split
  · exact coreKept_halt s _
  · split
    · exact coreKept_halt s _
    · split
      · exact (keeps_memRead s _).andThen fun v u => (coreKept_writeReg u _ _).trans (hb _ _)
      · exact (keeps_memWrite s _ _).andThen fun _ u => hb _ u

theorem coreKept_blockTransfer (c : Cond) (t : BlockTransfer) (raw : Word) (s : State) :
    CoreKept s (blockTransfer c t raw s) := by
  have hb : ∀ v u, CoreKept u (t.updateBase v u) := fun v u => by
    unfold BlockTransfer.updateBase
    split
    · exact coreKept_writeReg _ _ _
    · exact .refl u
  refine conditionally_induction (.refl s) ?_
  split
  · exact coreKept_halt s _
  · split
    · exact coreKept_halt s _
    · split
      · exact (keeps_loadRegisters _ _ s).andThen fun _ u => hb _ u
      · exact (keeps_storeRegisters _ _ s).andThen fun _ u => hb _ u

theorem coreKept_unexecuted (i : Instr) (s : State) : CoreKept s (unexecuted i s) :=
  conditionally_induction (.refl s) (coreKept_halt s _)

/-- What every instruction keeps. -/
theorem coreKept_exec {i : Instr} {s t : State} (h : exec i s = .next t) : CoreKept s t := by
  obtain ⟨_, _, _, _, _, _, he⟩ | ⟨_, _, _, he⟩ | ⟨_, _, he⟩ | ⟨_, _, he⟩ | ⟨_, he⟩ := exec_cases i <;>
    rw [he] at h <;> cases h
  · exact coreKept_dataProcess _ _ _ _ _ _ _ _
  · exact coreKept_branch _ _ _ _
  · exact coreKept_singleTransfer _ _ _ _
  · exact coreKept_blockTransfer _ _ _ _
  · exact coreKept_unexecuted _ _

end Sys2Proof.Machine
end

