-- ==== Sys2Proof/Laws/Block.lean ====
section
/-! SUPPORT. Block transfers: the addresses of the listed registers, and what the loops over them do. -/

namespace Sys2Proof.Machine

/-! ### Addresses -/

theorem listRank_succ (list : BitVec 16) (i : Nat) :
    listRank list (i + 1) = listRank list i + if list.getLsbD i then 1 else 0 := by
  unfold listRank
  rw [List.range_succ, List.filter_append, List.length_append]
  cases h : list.getLsbD i <;> simp [h]

/-- The registers of a list stand at `a`, `a + 4`, …, in its order. -/
def AddressesFrom (f : Reg → Word) : List Reg → Word → Prop
  | [], _ => True
  | i :: is, a => f i = a ∧ AddressesFrom f is (a + 4)

theorem addressesFrom_filter (list : BitVec 16) (a : Word) :
    ∀ (is : List Reg) (j : Nat), is.map (·.toNat) = List.range' j is.length →
      AddressesFrom (fun i => a + BitVec.ofNat 32 (4 * listRank list i.toNat))
        (is.filter fun i => list.getLsbD i.toNat) (a + BitVec.ofNat 32 (4 * listRank list j))
  | [], _, _ => trivial
  | i :: is, j, h => by
    simp only [List.map_cons, List.length_cons, List.range'_succ, List.cons.injEq] at h
    obtain ⟨rfl, h⟩ := h
    have ih := addressesFrom_filter list a is (i.toNat + 1) h
    rw [listRank_succ] at ih
    rw [List.filter_cons]
    split
    · next hi =>
      refine ⟨rfl, ?_⟩
      simp only [hi, if_true] at ih
      have : a + BitVec.ofNat 32 (4 * (listRank list i.toNat + 1))
          = a + BitVec.ofNat 32 (4 * listRank list i.toNat) + 4 := by
        rw [BitVec.add_assoc, Nat.mul_add, BitVec.ofNat_add]; rfl
      rwa [this] at ih
    · next hi => simpa [hi] using ih

/-- The listed registers stand at the running address of the loop (45_block_data_transfer.md R233). -/
theorem addressesFrom_registers (t : BlockTransfer) (s : State) :
    AddressesFrom (t.addressOf s) t.registers (t.start s) := by
  have h := addressesFrom_filter t.list (t.start s) allRegs 0 rfl
  have h0 : t.start s + BitVec.ofNat 32 (4 * listRank t.list 0) = t.start s := BitVec.add_zero _
  rw [h0] at h
  exact h

theorem AddressesFrom.split {f : Reg → Word} : ∀ {is js : List Reg} {a : Word},
    AddressesFrom f (is ++ js) a → AddressesFrom f is a ∧ ∃ b, AddressesFrom f js b
  | [], _, a, h => ⟨trivial, a, h⟩
  | _ :: _, _, _, h => by
    obtain ⟨h1, b, h2⟩ := AddressesFrom.split h.2
    exact ⟨⟨h.1, h1⟩, b, h2⟩

theorem mem_registers (t : BlockTransfer) (i : Reg) :
    i ∈ t.registers ↔ t.list.getLsbD i.toNat = true := by
  have : i ∈ allRegs := by revert i; decide
  simp [BlockTransfer.registers, this]

theorem registers_nodup (t : BlockTransfer) : t.registers.Nodup :=
  List.Nodup.filter _ (by decide)

theorem registers_pairwise (t : BlockTransfer) : t.registers.Pairwise (· < ·) :=
  List.Pairwise.filter _ (by decide)

/-- Whatever follows it, the part of the list before a register is what `before` names. -/
theorem before_eq {t : BlockTransfer} {pre rest : List Reg} {j : Reg} (h : t.registers = pre ++ j :: rest) :
    t.before j = pre := by
  have hp := registers_pairwise t
  rw [h, List.pairwise_append, List.pairwise_cons] at hp
  unfold BlockTransfer.before
  rw [h, List.filter_append, List.filter_cons]
  have hl : pre.filter (· < j) = pre := List.filter_eq_self.mpr fun x hx => by
    simpa using hp.2.2 x hx j (by simp)
  have hr : rest.filter (· < j) = [] := List.filter_eq_nil_iff.mpr fun x hx => by
    have := hp.2.1.1 x hx
    simp only [decide_eq_true_eq]
    exact fun hxj => by bv_omega
  simp [hl, hr]

/-- A listed register stands after the lower ones and before the higher ones. -/
theorem registers_split (t : BlockTransfer) (j : Reg) (h : t.list.getLsbD j.toNat = true) :
    ∃ rest, t.registers = t.before j ++ j :: rest := by
  obtain ⟨l, r, hlr⟩ := List.append_of_mem ((mem_registers t j).mpr h)
  exact ⟨r, by rw [before_eq hlr, hlr]⟩

/-- The bus as register `i`'s access finds it, when the registers before it are done. -/
theorem busAt_eq {t : BlockTransfer} {s : State} {pre rest : List Reg} {i : Reg}
    (h : t.registers = pre ++ i :: rest) : t.busAt s i = pre.foldl (t.access s) s.bus := by
  rw [BlockTransfer.busAt, before_eq h]

/-! ### The bus along a block -/

theorem BlockTransfer.moved_access (t : BlockTransfer) (s : State) (b : Bus) (i : Reg) :
    b.Moved (t.access s b i) := by
  unfold BlockTransfer.access
  split
  · exact b.moved_afterRead _
  · exact b.moved_afterWrite _ _

theorem moved_accesses (t : BlockTransfer) (s : State) : ∀ (is : List Reg) (b : Bus),
    b.Moved (is.foldl (t.access s) b)
  | [], b => .refl b
  | i :: is, b => (t.moved_access s b i).trans (moved_accesses t s is _)

/-- Away from devices a load leaves the bus as it is. -/
theorem reads_plain {t : BlockTransfer} {s : State} (hl : t.l = true) : ∀ {is : List Reg} {b : Bus},
    (∀ i ∈ is, b.device (t.addressOf s i) = false) → is.foldl (t.access s) b = b
  | [], _, _ => rfl
  | i :: is, b, h => by
    have hi : t.access s b i = b := by
      rw [BlockTransfer.access, if_pos hl, Bus.afterRead_plain (h i (by simp))]
    rw [List.foldl_cons, hi]
    exact reads_plain hl fun j hj => h j (by simp [hj])

/-- Away from devices a store changes no byte outside the words it addresses, and nothing but memory. -/
theorem writes_plain {t : BlockTransfer} {s : State} (hl : t.l = false) : ∀ {is : List Reg} {b : Bus},
    (∀ i ∈ is, b.device (t.addressOf s i) = false) →
    is.foldl (t.access s) b = { b with mem := (is.foldl (t.access s) b).mem } ∧
    ∀ n, (∀ i ∈ is, b.accepts (t.addressOf s i) (s.getReg i) = true → ¬ ByteOfWord b (t.addressOf s i) n) →
      (is.foldl (t.access s) b).mem.readByte n = b.mem.readByte n
  | [], _, _ => ⟨rfl, fun _ _ => rfl⟩
  | i :: is, b, h => by
    have hi : t.access s b i = b.afterWrite (t.addressOf s i) (s.getReg i) := by
      rw [BlockTransfer.access, hl]; rfl
    have hm := (b.moved_afterWrite (t.addressOf s i) (s.getReg i)).mapping
    have hd := h i (by simp)
    have hrest : ∀ j ∈ is, (b.afterWrite (t.addressOf s i) (s.getReg i)).device (t.addressOf s j) = false :=
      fun j hj => by rw [hm.device]; exact h j (by simp [hj])
    rw [List.foldl_cons, hi]
    obtain ⟨h1, h2⟩ := writes_plain (t := t) (s := s) hl hrest
    refine ⟨?_, fun n hn => ?_⟩
    · have hp := Bus.afterWrite_plain hd (s.getReg i)
      revert h1
      generalize List.foldl (t.access s) (b.afterWrite (t.addressOf s i) (s.getReg i)) is = d
      intro h1
      rw [h1, hp]
    · rw [h2 n fun j hj hacc => ?_]
      · cases ha : b.accepts (t.addressOf s i) (s.getReg i) with
        | false => rw [Bus.afterWrite_refused hd ha]
        | true => exact Bus.afterWrite_outside hd _ (hn i (by simp) ha)
      · rw [hm.byteOfWord]
        refine hn j (by simp [hj]) ?_
        rwa [hm.accepts (h j (by simp [hj])) _ (s.getReg j)] at hacc

theorem word_clear_low (x : Word) : x &&& (0xFFFFFFFC : Word) = (x >>> 2) <<< 2 := by
  apply BitVec.eq_of_getLsbD_eq
  intro i hi
  simp only [BitVec.getLsbD_and, BitVec.getLsbD_shiftLeft, BitVec.getLsbD_ushiftRight]
  interval_cases i <;> simp

theorem Bus.target_add_four (b : Bus) (a : Word) : b.target (a + 4) = (b.target a).map (· + 4) := by
  have h4 : (4 : Word).toNat = 4 := rfl
  have hx : (a + 4).extractLsb' 0 2 = a.extractLsb' 0 2 := by
    apply BitVec.eq_of_toNat_eq
    simp only [BitVec.extractLsb'_toNat, BitVec.toNat_add, h4, Nat.shiftRight_zero]
    omega
  have ha : (a + 4) &&& 0xFFFFFFFC = (a &&& 0xFFFFFFFC) + 4 := by
    rw [word_clear_low, word_clear_low]
    apply BitVec.eq_of_toNat_eq
    simp only [BitVec.toNat_shiftLeft, BitVec.toNat_ushiftRight, BitVec.toNat_add, h4,
      Nat.shiftRight_eq_div_pow, Nat.shiftLeft_eq]
    omega
  unfold Bus.target
  rw [hx]
  split
  · rfl
  · cases b.misaligned
    · rfl
    · exact congrArg some ha
    · rfl

/-- A word `4 * k` above another, `0 < k < 2^30`, shares no byte with it. -/
theorem byteAddress_apart (t : Word) {k : Nat} (h0 : 0 < k) (hk : k < 2 ^ 30) :
    ∀ i < 4, ∀ j < 4, byteAddress (t + BitVec.ofNat 32 (4 * k)) i ≠ byteAddress t j := by
  intro i hi j hj
  unfold byteAddress
  simp only [BitVec.toNat_add, BitVec.toNat_ofNat]
  omega

theorem Bus.target_add (b : Bus) (a : Word) (k : Nat) :
    b.target (a + BitVec.ofNat 32 (4 * k)) = (b.target a).map (· + BitVec.ofNat 32 (4 * k)) := by
  induction k with
  | zero => simp
  | succ k ih =>
    have h : ∀ x : Word, x + BitVec.ofNat 32 (4 * (k + 1)) = x + BitVec.ofNat 32 (4 * k) + 4 := fun x => by
      rw [BitVec.add_assoc, Nat.mul_add, BitVec.ofNat_add]; rfl
    rw [h, Bus.target_add_four, ih, Option.map_map]
    exact congrFun (congrArg Option.map (funext fun x => (h x).symm)) _

theorem addressesFrom_mem {f : Reg → Word} : ∀ {is : List Reg} {a : Word}, AddressesFrom f is a →
    ∀ i ∈ is, ∃ k < is.length, f i = a + BitVec.ofNat 32 (4 * k)
  | _ :: is, a, h, i, hi => by
    obtain rfl | hi := List.mem_cons.mp hi
    · exact ⟨0, by simp, by simpa using h.1⟩
    · obtain ⟨k, hk, he⟩ := addressesFrom_mem h.2 i hi
      refine ⟨k + 1, by simp [hk], ?_⟩
      rw [he, Nat.mul_add, BitVec.ofNat_add, BitVec.add_assoc, BitVec.add_comm 4]
      rfl

/-- Away from devices the words that plain memory keeps read back after the whole store: they lie apart. -/
theorem writes_read_back {t : BlockTransfer} {s : State} (hl : t.l = false) : ∀ {is : List Reg} {b : Bus} {a : Word},
    is.length ≤ 16 → AddressesFrom (t.addressOf s) is a → (∀ i ∈ is, b.device (t.addressOf s i) = false) →
    ∀ i ∈ is, b.storesAt (t.addressOf s i) ≠ none →
      (is.foldl (t.access s) b).read (t.addressOf s i) = some (s.getReg i)
  | j :: is, b, a, hlen, hf, h, i, hi, hs => by
    have hj : t.access s b j = b.afterWrite (t.addressOf s j) (s.getReg j) := by
      rw [BlockTransfer.access, hl]; rfl
    have hm := (b.moved_afterWrite (t.addressOf s j) (s.getReg j)).mapping
    have hrest : ∀ l ∈ is, (b.afterWrite (t.addressOf s j) (s.getReg j)).device (t.addressOf s l) = false :=
      fun l hl' => by rw [hm.device]; exact h l (by simp [hl'])
    simp only [List.length_cons] at hlen
    rw [List.foldl_cons, hj]
    obtain rfl | hi := List.mem_cons.mp hi
    · obtain ⟨tgt, ht⟩ := Option.ne_none_iff_exists'.mp hs
      obtain ⟨hd, htgt, _⟩ := Bus.storesAt_eq_some.mp ht
      obtain ⟨h1, h2⟩ := writes_plain (t := t) (s := s) hl hrest
      obtain ⟨u, hu, hmap, hw⟩ := (Bus.read_plain (by rw [hm.device]; exact hd)).mp (Bus.write_reads_back ht (s.getReg i))
      have hut : u = tgt := by rw [hm.target, htgt] at hu; exact (Option.some.inj hu).symm
      subst hut
      have hbytes : ∀ k < 4, (is.foldl (t.access s) (b.afterWrite (t.addressOf s i) (s.getReg i))).mem.readByte
          (byteAddress u k) = (b.afterWrite (t.addressOf s i) (s.getReg i)).mem.readByte (byteAddress u k) := by
        intro k hk
        refine h2 _ fun l hl' _ hb => ?_
        obtain ⟨v, hv, k', hk', he⟩ := hb
        obtain ⟨n, hn, hln⟩ := addressesFrom_mem hf.2 l hl'
        have hla : t.addressOf s l = t.addressOf s i + BitVec.ofNat 32 (4 * (n + 1)) := by
          rw [hln, ← hf.1, Nat.mul_add, BitVec.ofNat_add, BitVec.add_assoc, BitVec.add_comm 4]
          rfl
        rw [hm.target, hla, Bus.target_add, htgt] at hv
        obtain rfl := Option.some.inj hv
        exact byteAddress_apart u (by omega) (by omega) k' hk' k hk he.symm
      refine (Bus.read_plain ?_).mpr ⟨u, ?_, ?_, ?_⟩
      · rw [h1]; show (b.afterWrite _ _).device _ = false; rw [hm.device]; exact hd
      · rw [h1]; exact hu
      · rw [h1]; exact hmap
      · refine hw.trans ?_
        rw [Memory.readWord, Memory.readWord, hbytes 0 (by omega), hbytes 1 (by omega), hbytes 2 (by omega),
          hbytes 3 (by omega)]
        rw [h1]
    · exact writes_read_back hl (by omega) hf.2 hrest i hi (by rw [hm.storesAt]; exact hs)

/-! ### The loop of a load -/

/-- The value a load finds for a register: the bus's word, or the free word of its draw. -/
def BlockTransfer.loaded (t : BlockTransfer) (s : State) (i : Reg) : Word :=
  ((t.busAt s i).read (t.addressOf s i)).getD
    (Config.freeWord (s.draws + ((t.before i).filter (t.faultsAt s)).length))

/-- Everything about the state `u` that a load started in `s` is in after the registers `pre`. -/
structure Loaded (t : BlockTransfer) (s : State) (pre : List Reg) (u : State) : Prop where
  cpsr : u.cpsr = s.cpsr
  spsr : u.spsr = s.spsr
  fetched : u.fetched = s.fetched
  decoded : u.decoded = s.decoded
  halted : u.halted = s.halted
  policy : u.policy = s.policy
  bus : u.bus = pre.foldl (t.access s) s.bus
  draws : u.draws = s.draws + (pre.filter (t.faultsAt s)).length
  branched : u.branched = (pre.contains 15 || s.branched)
  values : ∀ i ∈ pre, u.getReg i = t.loaded s i
  regs : RegsKeptBut (pre.map (phys s.cpsr.mode)) s u
  log : u.busLog = (pre.map (t.event s)).reverse ++ s.busLog

theorem Loaded.nil (t : BlockTransfer) (s : State) : Loaded t s [] s :=
  ⟨rfl, rfl, rfl, rfl, rfl, rfl, rfl, rfl, rfl, by simp, fun _ _ => rfl, rfl⟩

/-- One register more, from whatever its access delivered. -/
theorem Loaded.next {t : BlockTransfer} {s u v : State} {pre rest : List Reg} {i : Reg}
    (h : Loaded t s pre u) (hl : t.l = true) (hr : t.registers = pre ++ i :: rest)
    (hv : v = u.portRead (t.addressOf s i) ∧ t.faultsAt s i = false ∨
      v = (u.portRead (t.addressOf s i)).drawn ∧ t.faultsAt s i = true) :
    Loaded t s (pre ++ [i]) (v.writeReg i (t.loaded s i)) := by
  have hb : u.bus = t.busAt s i := by rw [busAt_eq hr, h.bus]
  have hpre : pre.contains i = false := by
    have hp := registers_nodup t
    rw [hr, List.nodup_append] at hp
    exact Bool.eq_false_iff.mpr fun hc => hp.2.2 i (by simpa using hc) i (by simp) rfl
  have hbus : v.bus = t.access s u.bus i := by
    obtain ⟨rfl, _⟩ | ⟨rfl, _⟩ := hv <;> simp [BlockTransfer.access, hl]
  have hlog : v.busLog = t.event s i :: u.busLog := by
    obtain ⟨rfl, _⟩ | ⟨rfl, _⟩ := hv <;> simp [BlockTransfer.event, hl, hb]
  have hdraws : v.draws = u.draws + if t.faultsAt s i then 1 else 0 := by
    obtain ⟨rfl, hf⟩ | ⟨rfl, hf⟩ := hv <;> simp [hf]
  have hsame : v.regs = u.regs ∧ v.cpsr = u.cpsr ∧ v.spsr = u.spsr ∧ v.fetched = u.fetched ∧
      v.decoded = u.decoded ∧ v.halted = u.halted ∧ v.policy = u.policy ∧ v.branched = u.branched := by
    obtain ⟨rfl, _⟩ | ⟨rfl, _⟩ := hv <;> exact ⟨rfl, rfl, rfl, rfl, rfl, rfl, rfl, rfl⟩
  obtain ⟨hregs, hcpsr, hspsr, hfet, hdec, hhal, hpol, hbr⟩ := hsame
  have hmode : v.cpsr = s.cpsr := hcpsr.trans h.cpsr
  refine ⟨by simp [hmode], by simp [hspsr, h.spsr], by simp [hfet, h.fetched], by simp [hdec, h.decoded],
    by simp [hhal, h.halted], by simp [hpol, h.policy], by simp [hbus, h.bus], ?_, ?_, ?_, ?_, by simp [hlog, h.log]⟩
  · simp only [State.writeReg_draws, hdraws, h.draws, List.filter_append, List.length_append, List.filter_cons,
      List.filter_nil]
    split <;> simp_all [Nat.add_assoc]
  · simp only [State.writeReg_branched, hbr, h.branched]
    by_cases hi : i = 15
    · subst hi; simp
    · have h1 : (i == (15 : Reg)) = false := beq_eq_false_iff_ne.mpr hi
      have h2 : (15#4 == i) = false := beq_eq_false_iff_ne.mpr (Ne.symm hi)
      simp only [h1, Bool.or_false, List.contains_append, List.contains_cons, List.contains_nil]
      simp [h2]
  · intro j hj
    by_cases hji : j = i
    · subst hji; simp [State.getReg]
    · have hjp : j ∈ pre := by simpa [hji] using hj
      rw [State.getReg, State.writeReg_regs, State.writeReg_cpsr, RegFile.get_set_ne _ _ (by simpa using hji),
        hregs, hcpsr, ← h.values j hjp, State.getReg]
  · intro p hp
    simp only [List.map_append, List.map_cons, List.map_nil, List.mem_append, List.mem_singleton, not_or] at hp
    rw [State.writeReg_regs, RegFile.get_set_ne _ _ (by rw [hmode]; exact hp.2), hregs, h.regs p hp.1]

/-- A load goes on through the registers whose accesses are answered, or through all under the policy ignore. -/
theorem loadRegisters_done {t : BlockTransfer} {s : State} (hl : t.l = true) : ∀ (is pre rest : List Reg) (a : Word)
    (u : State), Loaded t s pre u → t.registers = pre ++ (is ++ rest) → AddressesFrom (t.addressOf s) is a →
    (s.policy = .ignore ∨ ∀ i ∈ is, t.faultsAt s i = false) →
    ∃ v, loadRegisters is a u = .done () v ∧ Loaded t s (pre ++ is) v
  | [], pre, rest, a, u, h, _, _, _ => ⟨u, rfl, by simpa using h⟩
  | i :: is, pre, rest, a, u, h, hr, hf, hp => by
    obtain ⟨rfl, hf⟩ := hf
    have hb : u.bus = t.busAt s i := by rw [busAt_eq hr, h.bus]
    have hfault : t.faultsAt s i = (u.bus.read (t.addressOf s i)).isNone := by
      rw [BlockTransfer.faultsAt, if_pos hl, hb]
    have hstep : ∃ v, u.memRead (t.addressOf s i) = .done (t.loaded s i) v ∧
        (v = u.portRead (t.addressOf s i) ∧ t.faultsAt s i = false ∨
          v = (u.portRead (t.addressOf s i)).drawn ∧ t.faultsAt s i = true) := by
      obtain ⟨w, hw, he⟩ | ⟨hw, hpol, he⟩ | ⟨hw, hpol, he⟩ := u.memRead_cases (t.addressOf s i)
      · refine ⟨_, ?_, .inl ⟨rfl, by rw [hfault, hw]; rfl⟩⟩
        rw [he, BlockTransfer.loaded, ← hb, hw]
        rfl
      · rw [hw] at hfault
        rw [h.policy] at hpol
        obtain hi | hi := hp
        · rw [hi] at hpol; cases hpol
        · rw [hi i (by simp)] at hfault; cases hfault
      · refine ⟨_, ?_, .inr ⟨rfl, by rw [hfault, hw]; rfl⟩⟩
        rw [he, BlockTransfer.loaded, ← hb, hw, before_eq hr, State.freeWord, h.draws]
        rfl
    obtain ⟨v, hm, hv⟩ := hstep
    have hn := h.next hl hr hv
    obtain ⟨w, hw, hlo⟩ := loadRegisters_done hl is (pre ++ [i]) rest (t.addressOf s i + 4) _ hn (by simpa using hr) hf
      (hp.imp_right fun hq j hj => hq j (by simp [hj]))
    refine ⟨w, ?_, by simpa using hlo⟩
    unfold loadRegisters
    rw [hm]
    exact hw

/-- A load of two lists in a row: the second starts where the first ends. -/
theorem loadRegisters_append (is js : List Reg) : ∀ (a : Word) (s : State) (f : Reg → Word),
    AddressesFrom f (is ++ js) a → ∀ t, loadRegisters is a s = .done () t →
    ∃ b, AddressesFrom f js b ∧ loadRegisters (is ++ js) a s = loadRegisters js b t := by
  induction is with
  | nil =>
    intro a s f hf t ht
    simp only [loadRegisters, Access.done.injEq, true_and] at ht
    subst ht
    exact ⟨a, hf, rfl⟩
  | cons i is ih =>
    intro a s f hf t ht
    simp only [loadRegisters, List.cons_append] at ht ⊢
    cases hm : s.memRead a with
    | halted u => rw [hm] at ht; simp at ht
    | done v u =>
      rw [hm] at ht
      exact ih (a + 4) _ f hf.2 t ht

/-! ### The loop of a store -/

/-- Everything about the state `u` that a store started in `s` is in after the registers `pre`. -/
structure Stored (t : BlockTransfer) (s : State) (pre : List Reg) (u : State) : Prop where
  rest : u = { s with bus := pre.foldl (t.access s) s.bus, busLog := (pre.map (t.event s)).reverse ++ s.busLog }

theorem Stored.nil (t : BlockTransfer) (s : State) : Stored t s [] s := ⟨rfl⟩

/-- One register more. -/
theorem Stored.next {t : BlockTransfer} {s u : State} {pre rest : List Reg} {i : Reg} (h : Stored t s pre u)
    (hl : t.l = false) (hr : t.registers = pre ++ i :: rest) :
    Stored t s (pre ++ [i]) (u.portWrite (t.addressOf s i) (u.getReg i)) := by
  have hb := busAt_eq (s := s) hr
  constructor
  rw [h.rest]
  simp only [State.portWrite, State.logEvent, List.foldl_append, List.foldl_cons, List.foldl_nil, List.map_append,
    List.map_cons, List.map_nil, List.reverse_append, List.reverse_cons, List.reverse_nil, List.nil_append,
    List.cons_append, BlockTransfer.access, BlockTransfer.event, hl, hb, State.getReg,
    Bool.false_eq_true, if_false]

/-- A store goes on through the registers whose accesses are answered, or through all under the policy ignore. -/
theorem storeRegisters_done {t : BlockTransfer} {s : State} (hl : t.l = false) : ∀ (is pre rest : List Reg)
    (a : Word) (u : State), Stored t s pre u → t.registers = pre ++ (is ++ rest) →
    AddressesFrom (t.addressOf s) is a → (s.policy = .ignore ∨ ∀ i ∈ is, t.faultsAt s i = false) →
    ∃ v, storeRegisters is a u = .done () v ∧ Stored t s (pre ++ is) v
  | [], pre, rest, a, u, h, _, _, _ => ⟨u, rfl, by simpa using h⟩
  | i :: is, pre, rest, a, u, h, hr, hf, hp => by
    obtain ⟨rfl, hf⟩ := hf
    have hb : u.bus = t.busAt s i := by rw [busAt_eq hr, h.rest]
    have hreg : u.getReg i = s.getReg i := by rw [h.rest]; rfl
    have hpolicy : u.policy = s.policy := by rw [h.rest]
    have hm : u.memWrite (t.addressOf s i) (u.getReg i) = .done () (u.portWrite (t.addressOf s i) (u.getReg i)) := by
      obtain ⟨_, he⟩ | ⟨hacc, hpol, he⟩ := u.memWrite_cases (t.addressOf s i) (u.getReg i)
      · exact he
      · rw [hpolicy] at hpol
        obtain hi | hi := hp
        · rw [hi] at hpol; cases hpol
        · have := hi i (by simp)
          rw [BlockTransfer.faultsAt, hl, ← hb, ← hreg, hacc] at this
          cases this
    obtain ⟨w, hw, hst⟩ := storeRegisters_done hl is (pre ++ [i]) rest (t.addressOf s i + 4) _ (h.next hl hr)
      (by simpa using hr) hf (hp.imp_right fun hq j hj => hq j (by simp [hj]))
    refine ⟨w, ?_, by simpa using hst⟩
    unfold storeRegisters
    rw [hm]
    exact hw

/-- A store of two lists in a row: the second starts where the first ends. -/
theorem storeRegisters_append (is js : List Reg) : ∀ (a : Word) (s : State) (f : Reg → Word),
    AddressesFrom f (is ++ js) a → ∀ t, storeRegisters is a s = .done () t →
    ∃ b, AddressesFrom f js b ∧ storeRegisters (is ++ js) a s = storeRegisters js b t := by
  induction is with
  | nil =>
    intro a s f hf t ht
    simp only [storeRegisters, Access.done.injEq, true_and] at ht
    subst ht
    exact ⟨a, hf, rfl⟩
  | cons i is ih =>
    intro a s f hf t ht
    simp only [storeRegisters, List.cons_append] at ht ⊢
    cases hm : s.memWrite a (s.getReg i) with
    | halted u => rw [hm] at ht; simp at ht
    | done v u =>
      rw [hm] at ht
      exact ih (a + 4) _ f hf.2 t ht

end Sys2Proof.Machine
end

