-- ==== Sys2Proof/Laws/Decode.lean ====
section
/-! SUPPORT. Codes of the named fields read back, the condition field of every format, and what matching a
row of the decode table says about the bits of a word. -/

namespace Sys2Proof

/-! ### Codes -/

@[simp] theorem Cond.ofCode_code (c : Cond) : Cond.ofCode c.code = c := by cases c <;> rfl

@[simp] theorem Cond.code_ofCode (n : BitVec 4) : (Cond.ofCode n).code = n := by revert n; decide

@[simp] theorem ShiftType.ofCode_code (t : ShiftType) : ShiftType.ofCode t.code = t := by cases t <;> rfl

@[simp] theorem ShiftType.code_ofCode (n : BitVec 2) : (ShiftType.ofCode n).code = n := by revert n; decide

/-! ### The condition field of every format -/

/-- A word whose top four bits are a condition's code has that condition. -/
theorem condField_of_top {w : Word} {c : Cond} {j : Nat} (h : ∀ k < 4, w.getLsbD (j + k) = c.code.getLsbD k)
    (hj : j = 28) : w.condField = c := by
  subst hj
  have : w.field 28 4 = c.code := by
    apply BitVec.eq_of_getLsbD_eq
    intro k hk
    simp only [Word.field, BitVec.getLsbD_extractLsb', hk, decide_true, Bool.true_and]
    exact h k hk
  rw [Word.condField, this, Cond.ofCode_code]

theorem top_self (c : BitVec 4) : ∀ k < 4, c.getLsbD (0 + k) = c.getLsbD k := by simp

/-- A field appended below leaves the four bits at the top where they are, counted from above. -/
theorem top_append {n m j : Nat} {x : BitVec n} {c : BitVec 4} (y : BitVec m)
    (h : ∀ k < 4, x.getLsbD (j + k) = c.getLsbD k) : ∀ k < 4, (x ++ y).getLsbD (j + m + k) = c.getLsbD k := by
  intro k hk
  rw [BitVec.getLsbD_append, if_neg (by omega), ← h k hk]
  congr 1
  omega

@[simp] theorem condField_bxWord (c : Cond) (rm : Reg) : (bxWord c rm).condField = c :=
  condField_of_top (top_append _ (top_append _ (top_self _))) rfl

@[simp] theorem condField_multiplyWord (c : Cond) (a s : Bool) (rd rn rs rm : Reg) :
    (multiplyWord c a s rd rn rs rm).condField = c :=
  condField_of_top (top_append _ (top_append _ (top_append _ (top_append _ (top_append _ (top_append _
    (top_append _ (top_append _ (top_self _))))))))) rfl

@[simp] theorem condField_longMultiplyWord (c : Cond) (sg a : Bool) (f : LongMultiplyFields) :
    (longMultiplyWord c sg a f).condField = c :=
  condField_of_top (top_append _ (top_append _ (top_append _ (top_append _ (top_append _ (top_append _
    (top_append _ (top_append _ (top_append _ (top_self _)))))))))) rfl

@[simp] theorem condField_extensionWord (c : Cond) (l sx h : Bool) (f : ExtensionFields) :
    (extensionWord c l sx h f).condField = c :=
  condField_of_top (top_append _ (top_append _ (top_append _ (top_append _ (top_append _ (top_append _
    (top_append _ (top_append _ (top_append _ (top_append _ (top_append _ (top_append _ (top_append _
    (top_append _ (top_self _))))))))))))))) rfl

@[simp] theorem condField_mrsWord (c : Cond) (ps : Bool) (rd : Reg) : (mrsWord c ps rd).condField = c :=
  condField_of_top (top_append _ (top_append _ (top_append _ (top_append _ (top_append _ (top_self _))))))
    rfl

@[simp] theorem condField_msrRegWord (c : Cond) (ps : Bool) (m : BitVec 4) (rm : Reg) :
    (msrRegWord c ps m rm).condField = c :=
  condField_of_top (top_append _ (top_append _ (top_append _ (top_append _ (top_append _ (top_append _
    (top_append _ (top_self _)))))))) rfl

@[simp] theorem condField_msrImmWord (c : Cond) (ps : Bool) (m : BitVec 4) (o : ImmOperand) :
    (msrImmWord c ps m o).condField = c :=
  condField_of_top (top_append _ (top_append _ (top_append _ (top_append _ (top_append _ (top_append _
    (top_append _ (top_self _)))))))) rfl

@[simp] theorem condField_dataProcessWord (c : Cond) (i : Bool) (op : Opcode) (s : Bool) (rn rd : Reg)
    (o : BitVec 12) : (dataProcessWord c i op s rn rd o).condField = c :=
  condField_of_top (top_append _ (top_append _ (top_append _ (top_append _ (top_append _ (top_append _
    (top_append _ (top_self _)))))))) rfl

@[simp] theorem condField_transferWord (c : Cond) (p u b w l : Bool) (rn rd : Reg) (off : TransferOffset) :
    (transferWord c p u b w l rn rd off).condField = c :=
  condField_of_top (top_append _ (top_append _ (top_append _ (top_append _ (top_append _ (top_append _
    (top_append _ (top_append _ (top_append _ (top_append _ (top_self _))))))))))) rfl

@[simp] theorem condField_blockWord (c : Cond) (p u sb w l : Bool) (rn : Reg) (list : BitVec 16) :
    (blockWord c p u sb w l rn list).condField = c :=
  condField_of_top (top_append _ (top_append _ (top_append _ (top_append _ (top_append _ (top_append _
    (top_append _ (top_append _ (top_self _))))))))) rfl

@[simp] theorem condField_branchWord (c : Cond) (lk : Bool) (off : BitVec 24) :
    (branchWord c lk off).condField = c :=
  condField_of_top (top_append _ (top_append _ (top_append _ (top_self _)))) rfl

@[simp] theorem condField_coTransferWord (c : Cond) (l : Bool) (f : CoTransferFields) :
    (coTransferWord c l f).condField = c :=
  condField_of_top (top_append _ (top_append _ (top_append _ (top_append _ (top_append _ (top_append _
    (top_append _ (top_append _ (top_append _ (top_append _ (top_self _))))))))))) rfl

@[simp] theorem condField_coOperationWord (c : Cond) (opc1 crn crd cpNum : BitVec 4) (opc2 : BitVec 3)
    (crm : BitVec 4) : (coOperationWord c opc1 crn crd cpNum opc2 crm).condField = c :=
  condField_of_top (top_append _ (top_append _ (top_append _ (top_append _ (top_append _ (top_append _
    (top_append _ (top_append _ (top_self _))))))))) rfl

@[simp] theorem condField_coRegisterWord (c : Cond) (l : Bool) (f : CoRegisterFields) :
    (coRegisterWord c l f).condField = c :=
  condField_of_top (top_append _ (top_append _ (top_append _ (top_append _ (top_append _ (top_append _
    (top_append _ (top_append _ (top_append _ (top_self _)))))))))) rfl

@[simp] theorem condField_swiWord (c : Cond) (comment24 : BitVec 24) : (swiWord c comment24).condField = c :=
  condField_of_top (top_append _ (top_append _ (top_self _))) rfl

/-! ### Rows -/

/-- A word that matches a row has the row's pattern in every bit of its mask (30_encoding.md R84). -/
theorem Word.getLsbD_of_hits {w mask pattern : Word} (h : w.hits mask pattern = true) {k : Nat}
    (hk : mask.getLsbD k = true) : w.getLsbD k = pattern.getLsbD k := by
  have he : w &&& mask = pattern := by simpa [Word.hits] using h
  rw [← he, BitVec.getLsbD_and, hk, Bool.and_true]

/-- Two rows whose patterns differ in a bit of both masks match no common word. -/
theorem Word.hits_disjoint {w m p m' p' : Word} (h : w.hits m p = true) {k : Nat}
    (hm : m.getLsbD k = true) (hm' : m'.getLsbD k = true) (hp : p.getLsbD k ≠ p'.getLsbD k) :
    w.hits m' p' = false := by
  rw [Bool.eq_false_iff]
  intro h'
  exact hp ((Word.getLsbD_of_hits h hm).symm.trans (Word.getLsbD_of_hits h' hm'))

/-- The decoder reads the first row that matches (30_encoding.md R84). -/
theorem decode_of_find {w : Word} {r : Row} (h : rows.find? (·.hits w) = some r) : decode w = r.read w := by
  rw [decode, h]

/-- Every word matches a row, the last one if no other (30_encoding.md R107). -/
theorem find_row_isSome (w : Word) : (rows.find? (·.hits w)).isSome = true := by
  rw [List.find?_isSome]
  exact ⟨⟨0, 0, fun w => .undLast w⟩, by simp [rows, rowsTail], by simp [Row.hits, Word.hits]⟩

end Sys2Proof
end

