-- ==== Sys2Proof/Laws/PerInstr.lean ====
section
/-! SUPPORT. Per-instruction lemmas: the condition of an instruction stands in bits 31:28 of its word
(30_encoding.md R80). -/

namespace Sys2Proof.Laws.CondField

/-- Bits 31:28 of the instruction's word name its condition (30_encoding.md R80, R83). -/
def Statement (i : Instr) : Prop := (encode i).condField = i.cond

theorem bx (c : Cond) (rm : Reg) : Statement (.bx c rm) := condField_bxWord ..

theorem mul (c : Cond) (s : Bool) (rd rn rs rm : Reg) : Statement (.mul c s rd rn rs rm) :=
  condField_multiplyWord ..

theorem mla (c : Cond) (s : Bool) (rd rn rs rm : Reg) : Statement (.mla c s rd rn rs rm) :=
  condField_multiplyWord ..

theorem umull (c : Cond) (f : LongMultiplyFields) : Statement (.umull c f) := condField_longMultiplyWord ..

theorem umlal (c : Cond) (f : LongMultiplyFields) : Statement (.umlal c f) := condField_longMultiplyWord ..

theorem smull (c : Cond) (f : LongMultiplyFields) : Statement (.smull c f) := condField_longMultiplyWord ..

theorem smlal (c : Cond) (f : LongMultiplyFields) : Statement (.smlal c f) := condField_longMultiplyWord ..

theorem swp (raw : Word) : Statement (.swp raw) := rfl

theorem swpb (raw : Word) : Statement (.swpb raw) := rfl

theorem undRow4 (raw : Word) : Statement (.undRow4 raw) := rfl

theorem strh (c : Cond) (f : ExtensionFields) : Statement (.strh c f) := condField_extensionWord ..

theorem ldrh (c : Cond) (f : ExtensionFields) : Statement (.ldrh c f) := condField_extensionWord ..

theorem ldrsb (c : Cond) (f : ExtensionFields) : Statement (.ldrsb c f) := condField_extensionWord ..

theorem ldrsh (c : Cond) (f : ExtensionFields) : Statement (.ldrsh c f) := condField_extensionWord ..

theorem lseUnnamed (c : Cond) (h : Bool) (f : ExtensionFields) : Statement (.lseUnnamed c h f) :=
  condField_extensionWord ..

theorem mrs (c : Cond) (ps : Bool) (rd : Reg) : Statement (.mrs c ps rd) := condField_mrsWord ..

theorem msrReg (c : Cond) (ps : Bool) (fieldMask : BitVec 4) (rm : Reg) : Statement (.msrReg c ps fieldMask rm) :=
  condField_msrRegWord ..

theorem msrImm (c : Cond) (ps : Bool) (fieldMask : BitVec 4) (o : ImmOperand) : Statement (.msrImm c ps fieldMask o) :=
  condField_msrImmWord ..

theorem undRow9 (raw : Word) : Statement (.undRow9 raw) := rfl

theorem andImm (c : Cond) (s : Bool) (rn rd : Reg) (o : ImmOperand) : Statement (.andImm c s rn rd o) :=
  condField_dataProcessWord ..

theorem eorImm (c : Cond) (s : Bool) (rn rd : Reg) (o : ImmOperand) : Statement (.eorImm c s rn rd o) :=
  condField_dataProcessWord ..

theorem subImm (c : Cond) (s : Bool) (rn rd : Reg) (o : ImmOperand) : Statement (.subImm c s rn rd o) :=
  condField_dataProcessWord ..

theorem rsbImm (c : Cond) (s : Bool) (rn rd : Reg) (o : ImmOperand) : Statement (.rsbImm c s rn rd o) :=
  condField_dataProcessWord ..

theorem addImm (c : Cond) (s : Bool) (rn rd : Reg) (o : ImmOperand) : Statement (.addImm c s rn rd o) :=
  condField_dataProcessWord ..

theorem adcImm (c : Cond) (s : Bool) (rn rd : Reg) (o : ImmOperand) : Statement (.adcImm c s rn rd o) :=
  condField_dataProcessWord ..

theorem sbcImm (c : Cond) (s : Bool) (rn rd : Reg) (o : ImmOperand) : Statement (.sbcImm c s rn rd o) :=
  condField_dataProcessWord ..

theorem rscImm (c : Cond) (s : Bool) (rn rd : Reg) (o : ImmOperand) : Statement (.rscImm c s rn rd o) :=
  condField_dataProcessWord ..

theorem tstImm (c : Cond) (rn rd : Reg) (o : ImmOperand) : Statement (.tstImm c rn rd o) :=
  condField_dataProcessWord ..

theorem teqImm (c : Cond) (rn rd : Reg) (o : ImmOperand) : Statement (.teqImm c rn rd o) :=
  condField_dataProcessWord ..

theorem cmpImm (c : Cond) (rn rd : Reg) (o : ImmOperand) : Statement (.cmpImm c rn rd o) :=
  condField_dataProcessWord ..

theorem cmnImm (c : Cond) (rn rd : Reg) (o : ImmOperand) : Statement (.cmnImm c rn rd o) :=
  condField_dataProcessWord ..

theorem orrImm (c : Cond) (s : Bool) (rn rd : Reg) (o : ImmOperand) : Statement (.orrImm c s rn rd o) :=
  condField_dataProcessWord ..

theorem movImm (c : Cond) (s : Bool) (rn rd : Reg) (o : ImmOperand) : Statement (.movImm c s rn rd o) :=
  condField_dataProcessWord ..

theorem bicImm (c : Cond) (s : Bool) (rn rd : Reg) (o : ImmOperand) : Statement (.bicImm c s rn rd o) :=
  condField_dataProcessWord ..

theorem mvnImm (c : Cond) (s : Bool) (rn rd : Reg) (o : ImmOperand) : Statement (.mvnImm c s rn rd o) :=
  condField_dataProcessWord ..

theorem andShImm (c : Cond) (s : Bool) (rn rd : Reg) (o : ShiftImmOperand) : Statement (.andShImm c s rn rd o) :=
  condField_dataProcessWord ..

theorem eorShImm (c : Cond) (s : Bool) (rn rd : Reg) (o : ShiftImmOperand) : Statement (.eorShImm c s rn rd o) :=
  condField_dataProcessWord ..

theorem subShImm (c : Cond) (s : Bool) (rn rd : Reg) (o : ShiftImmOperand) : Statement (.subShImm c s rn rd o) :=
  condField_dataProcessWord ..

theorem rsbShImm (c : Cond) (s : Bool) (rn rd : Reg) (o : ShiftImmOperand) : Statement (.rsbShImm c s rn rd o) :=
  condField_dataProcessWord ..

theorem addShImm (c : Cond) (s : Bool) (rn rd : Reg) (o : ShiftImmOperand) : Statement (.addShImm c s rn rd o) :=
  condField_dataProcessWord ..

theorem adcShImm (c : Cond) (s : Bool) (rn rd : Reg) (o : ShiftImmOperand) : Statement (.adcShImm c s rn rd o) :=
  condField_dataProcessWord ..

theorem sbcShImm (c : Cond) (s : Bool) (rn rd : Reg) (o : ShiftImmOperand) : Statement (.sbcShImm c s rn rd o) :=
  condField_dataProcessWord ..

theorem rscShImm (c : Cond) (s : Bool) (rn rd : Reg) (o : ShiftImmOperand) : Statement (.rscShImm c s rn rd o) :=
  condField_dataProcessWord ..

theorem tstShImm (c : Cond) (rn rd : Reg) (o : ShiftImmOperand) : Statement (.tstShImm c rn rd o) :=
  condField_dataProcessWord ..

theorem teqShImm (c : Cond) (rn rd : Reg) (o : ShiftImmOperand) : Statement (.teqShImm c rn rd o) :=
  condField_dataProcessWord ..

theorem cmpShImm (c : Cond) (rn rd : Reg) (o : ShiftImmOperand) : Statement (.cmpShImm c rn rd o) :=
  condField_dataProcessWord ..

theorem cmnShImm (c : Cond) (rn rd : Reg) (o : ShiftImmOperand) : Statement (.cmnShImm c rn rd o) :=
  condField_dataProcessWord ..

theorem orrShImm (c : Cond) (s : Bool) (rn rd : Reg) (o : ShiftImmOperand) : Statement (.orrShImm c s rn rd o) :=
  condField_dataProcessWord ..

theorem movShImm (c : Cond) (s : Bool) (rn rd : Reg) (o : ShiftImmOperand) : Statement (.movShImm c s rn rd o) :=
  condField_dataProcessWord ..

theorem bicShImm (c : Cond) (s : Bool) (rn rd : Reg) (o : ShiftImmOperand) : Statement (.bicShImm c s rn rd o) :=
  condField_dataProcessWord ..

theorem mvnShImm (c : Cond) (s : Bool) (rn rd : Reg) (o : ShiftImmOperand) : Statement (.mvnShImm c s rn rd o) :=
  condField_dataProcessWord ..

theorem andShReg (c : Cond) (s : Bool) (rn rd : Reg) (o : ShiftRegOperand) : Statement (.andShReg c s rn rd o) :=
  condField_dataProcessWord ..

theorem eorShReg (c : Cond) (s : Bool) (rn rd : Reg) (o : ShiftRegOperand) : Statement (.eorShReg c s rn rd o) :=
  condField_dataProcessWord ..

theorem subShReg (c : Cond) (s : Bool) (rn rd : Reg) (o : ShiftRegOperand) : Statement (.subShReg c s rn rd o) :=
  condField_dataProcessWord ..

theorem rsbShReg (c : Cond) (s : Bool) (rn rd : Reg) (o : ShiftRegOperand) : Statement (.rsbShReg c s rn rd o) :=
  condField_dataProcessWord ..

theorem addShReg (c : Cond) (s : Bool) (rn rd : Reg) (o : ShiftRegOperand) : Statement (.addShReg c s rn rd o) :=
  condField_dataProcessWord ..

theorem adcShReg (c : Cond) (s : Bool) (rn rd : Reg) (o : ShiftRegOperand) : Statement (.adcShReg c s rn rd o) :=
  condField_dataProcessWord ..

theorem sbcShReg (c : Cond) (s : Bool) (rn rd : Reg) (o : ShiftRegOperand) : Statement (.sbcShReg c s rn rd o) :=
  condField_dataProcessWord ..

theorem rscShReg (c : Cond) (s : Bool) (rn rd : Reg) (o : ShiftRegOperand) : Statement (.rscShReg c s rn rd o) :=
  condField_dataProcessWord ..

theorem tstShReg (c : Cond) (rn rd : Reg) (o : ShiftRegOperand) : Statement (.tstShReg c rn rd o) :=
  condField_dataProcessWord ..

theorem teqShReg (c : Cond) (rn rd : Reg) (o : ShiftRegOperand) : Statement (.teqShReg c rn rd o) :=
  condField_dataProcessWord ..

theorem cmpShReg (c : Cond) (rn rd : Reg) (o : ShiftRegOperand) : Statement (.cmpShReg c rn rd o) :=
  condField_dataProcessWord ..

theorem cmnShReg (c : Cond) (rn rd : Reg) (o : ShiftRegOperand) : Statement (.cmnShReg c rn rd o) :=
  condField_dataProcessWord ..

theorem orrShReg (c : Cond) (s : Bool) (rn rd : Reg) (o : ShiftRegOperand) : Statement (.orrShReg c s rn rd o) :=
  condField_dataProcessWord ..

theorem movShReg (c : Cond) (s : Bool) (rn rd : Reg) (o : ShiftRegOperand) : Statement (.movShReg c s rn rd o) :=
  condField_dataProcessWord ..

theorem bicShReg (c : Cond) (s : Bool) (rn rd : Reg) (o : ShiftRegOperand) : Statement (.bicShReg c s rn rd o) :=
  condField_dataProcessWord ..

theorem mvnShReg (c : Cond) (s : Bool) (rn rd : Reg) (o : ShiftRegOperand) : Statement (.mvnShReg c s rn rd o) :=
  condField_dataProcessWord ..

theorem undRow13 (raw : Word) : Statement (.undRow13 raw) := rfl

theorem ldrt (c : Cond) (u : Bool) (rn rd : Reg) (off : TransferOffset) : Statement (.ldrt c u rn rd off) :=
  condField_transferWord ..

theorem strt (c : Cond) (u : Bool) (rn rd : Reg) (off : TransferOffset) : Statement (.strt c u rn rd off) :=
  condField_transferWord ..

theorem ldrbt (c : Cond) (u : Bool) (rn rd : Reg) (off : TransferOffset) : Statement (.ldrbt c u rn rd off) :=
  condField_transferWord ..

theorem strbt (c : Cond) (u : Bool) (rn rd : Reg) (off : TransferOffset) : Statement (.strbt c u rn rd off) :=
  condField_transferWord ..

theorem ldr (c : Cond) (p u w : Bool) (rn rd : Reg) (off : TransferOffset) : Statement (.ldr c p u w rn rd off) :=
  condField_transferWord ..

theorem str (c : Cond) (p u w : Bool) (rn rd : Reg) (off : TransferOffset) : Statement (.str c p u w rn rd off) :=
  condField_transferWord ..

theorem ldrb (c : Cond) (p u w : Bool) (rn rd : Reg) (off : TransferOffset) : Statement (.ldrb c p u w rn rd off) :=
  condField_transferWord ..

theorem strb (c : Cond) (p u w : Bool) (rn rd : Reg) (off : TransferOffset) : Statement (.strb c p u w rn rd off) :=
  condField_transferWord ..

theorem ldmia (c : Cond) (sb w : Bool) (rn : Reg) (list : BitVec 16) : Statement (.ldmia c sb w rn list) :=
  condField_blockWord ..

theorem ldmib (c : Cond) (sb w : Bool) (rn : Reg) (list : BitVec 16) : Statement (.ldmib c sb w rn list) :=
  condField_blockWord ..

theorem ldmda (c : Cond) (sb w : Bool) (rn : Reg) (list : BitVec 16) : Statement (.ldmda c sb w rn list) :=
  condField_blockWord ..

theorem ldmdb (c : Cond) (sb w : Bool) (rn : Reg) (list : BitVec 16) : Statement (.ldmdb c sb w rn list) :=
  condField_blockWord ..

theorem stmia (c : Cond) (sb w : Bool) (rn : Reg) (list : BitVec 16) : Statement (.stmia c sb w rn list) :=
  condField_blockWord ..

theorem stmib (c : Cond) (sb w : Bool) (rn : Reg) (list : BitVec 16) : Statement (.stmib c sb w rn list) :=
  condField_blockWord ..

theorem stmda (c : Cond) (sb w : Bool) (rn : Reg) (list : BitVec 16) : Statement (.stmda c sb w rn list) :=
  condField_blockWord ..

theorem stmdb (c : Cond) (sb w : Bool) (rn : Reg) (list : BitVec 16) : Statement (.stmdb c sb w rn list) :=
  condField_blockWord ..

theorem b (c : Cond) (offset24 : BitVec 24) : Statement (.b c offset24) := condField_branchWord ..

theorem bl (c : Cond) (offset24 : BitVec 24) : Statement (.bl c offset24) := condField_branchWord ..

theorem ldc (c : Cond) (f : CoTransferFields) : Statement (.ldc c f) := condField_coTransferWord ..

theorem stc (c : Cond) (f : CoTransferFields) : Statement (.stc c f) := condField_coTransferWord ..

theorem cdp (c : Cond) (opc1 crn crd cpNum : BitVec 4) (opc2 : BitVec 3) (crm : BitVec 4) : Statement (.cdp c opc1 crn crd cpNum opc2 crm) :=
  condField_coOperationWord ..

theorem mcr (c : Cond) (f : CoRegisterFields) : Statement (.mcr c f) := condField_coRegisterWord ..

theorem mrc (c : Cond) (f : CoRegisterFields) : Statement (.mrc c f) := condField_coRegisterWord ..

theorem swi (c : Cond) (comment24 : BitVec 24) : Statement (.swi c comment24) := condField_swiWord ..

theorem undLast (raw : Word) : Statement (.undLast raw) := rfl

end Sys2Proof.Laws.CondField
end

