-- ==== Sys2Proof/Laws/Step.lean ====
section
/-! SUPPORT. What a step can do (40_step_pipeline_condition.md R130): its execution part, and the completion that
follows it. -/

namespace Sys2Proof.Machine

/-! ### Advance -/

/-- Decode, fetch and advance, field by field (R130 parts 2b, 3, 4). -/
theorem State.advance_eq (s : State) : s.advance = { s with
    regs := s.regs.set (.r 15) (s.pc + 4)
    decoded := s.fetched.decodeNow
    fetched := match s.bus.read s.pc with
      | some w => .word w
      | none => .fetchFault s.pc
    bus := s.bus.afterRead s.pc
    busLog := .read s.pc (s.bus.read s.pc) :: s.busLog } := rfl

@[simp] theorem State.advance_pc (s : State) : s.advance.pc = s.pc + 4 := by simp [advance_eq, State.pc]
@[simp] theorem State.advance_regs (s : State) : s.advance.regs = s.regs.set (.r 15) (s.pc + 4) := rfl
@[simp] theorem State.advance_cpsr (s : State) : s.advance.cpsr = s.cpsr := rfl
@[simp] theorem State.advance_spsr (s : State) : s.advance.spsr = s.spsr := rfl
@[simp] theorem State.advance_decoded (s : State) : s.advance.decoded = s.fetched.decodeNow := rfl
@[simp] theorem State.advance_fetched (s : State) : s.advance.fetched =
    match s.bus.read s.pc with
    | some w => .word w
    | none => .fetchFault s.pc := rfl
@[simp] theorem State.advance_halted (s : State) : s.advance.halted = s.halted := rfl
@[simp] theorem State.advance_branched (s : State) : s.advance.branched = s.branched := rfl
@[simp] theorem State.advance_bus (s : State) : s.advance.bus = s.bus.afterRead s.pc := rfl
@[simp] theorem State.advance_policy (s : State) : s.advance.policy = s.policy := rfl
@[simp] theorem State.advance_draws (s : State) : s.advance.draws = s.draws := rfl
@[simp] theorem State.advance_busLog (s : State) :
    s.advance.busLog = .read s.pc (s.bus.read s.pc) :: s.busLog := rfl

/-! ### The step -/

/-- The three ways a step completes: halted, flushed, advanced. -/
theorem State.completeStep_cases (s : State) :
    (s.halted.isSome = true ∧ s.completeStep = { s with branched := false })
    ∨ (s.halted = none ∧ s.branched = true ∧ s.completeStep = s.flush)
    ∨ (s.halted = none ∧ s.branched = false ∧ s.completeStep = s.advance) := by
  unfold State.completeStep
  cases s.halted with
  | some r => exact .inl ⟨rfl, rfl⟩
  | none => cases s.branched <;> simp

/-- The state the execution part of a step leads to: nothing was decoded, a deferred fetch fault is raised, or an
instruction is executed. -/
def Executed (s u : State) : Prop :=
  (s.decoded = .none ∧ u = s.beginStep)
  ∨ (∃ a, s.decoded = .fetchFault a ∧ u = s.beginStep.halt (.busFault a .fetch))
  ∨ ∃ i, s.decoded = .instr i ∧ exec i s.beginStep = .next u

/-- Everything a step can do. -/
theorem step_cases (s : State) :
    (s.halted.isSome = true ∧ step s = .next s)
    ∨ (s.halted = none ∧ ∃ u, Executed s u ∧ step s = .next u.completeStep) := by
  unfold step
  cases s.halted with
  | some r => exact .inl ⟨rfl, rfl⟩
  | none =>
    refine .inr ⟨rfl, ?_⟩
    cases hd : s.decoded with
    | none => exact ⟨_, .inl ⟨hd, rfl⟩, rfl⟩
    | fetchFault a => exact ⟨_, .inr (.inl ⟨a, hd, rfl⟩), rfl⟩
    | instr i =>
      obtain ⟨u, hu⟩ := exec_next i s.beginStep
      exact ⟨u, .inr (.inr ⟨i, hd, hu⟩), by simp [hu]⟩

/-- The step of an instruction, from what exec answers. -/
theorem step_instr {s u : State} {i : Instr} (hh : s.halted = none) (hd : s.decoded = .instr i)
    (he : exec i s.beginStep = .next u) : step s = .next u.completeStep := by simp [step, hh, hd, he]

/-- A step with nothing decoded only decodes, fetches and advances. -/
theorem step_idle {s : State} (hh : s.halted = none) (hb : s.branched = false) (hd : s.decoded = .none) :
    step s = .next s.advance := by
  have he : s.beginStep = s := by rw [State.beginStep, ← hb]
  simp [step, hh, hd, he, State.completeStep, hb]

theorem Executed.coreKept {s u : State} (h : Executed s u) : CoreKept s u := by
  have hb : CoreKept s s.beginStep := .of_eq ⟨rfl, rfl, rfl, rfl, rfl, rfl, rfl⟩ (.refl _)
  obtain ⟨_, rfl⟩ | ⟨a, _, rfl⟩ | ⟨i, _, he⟩ := h
  · exact hb
  · exact hb.trans (coreKept_halt _ _)
  · exact hb.trans (coreKept_exec he)

/-- The completion of a step keeps the status word and the SPSRs, and moves the bus by at most one fetch. -/
theorem completeStep_kept (s : State) : s.completeStep.cpsr = s.cpsr ∧ s.completeStep.spsr = s.spsr ∧
    s.completeStep.policy = s.policy ∧ s.completeStep.draws = s.draws ∧ s.bus.Moved s.completeStep.bus := by
  obtain ⟨_, he⟩ | ⟨_, _, he⟩ | ⟨_, _, he⟩ := s.completeStep_cases <;> rw [he]
  · exact ⟨rfl, rfl, rfl, rfl, .refl _⟩
  · exact ⟨rfl, rfl, rfl, rfl, .refl _⟩
  · exact ⟨rfl, rfl, rfl, rfl, s.bus.moved_afterRead _⟩

end Sys2Proof.Machine
end

