-- ==== Sys2Proof/Tests/Slice0.lean ====
section
/-! SUPPORT. Tests. Expected values come from the spec: the encodings of 30_encoding.md, the vectors of
95_test_vectors.md and the examples of the rules cited. The last part shows, for every statement of the
certificates that has hypotheses, a state and operands that meet them all. -/

namespace Sys2Proof.Tests

open Sys2Proof.Machine

/-! ## Helpers -/

/-- A bus like TB (20_memory.md R66): only the listed words are mapped, each with the value beside it. -/
def tb (words : List (Word × Word)) : Bus where
  mem := words.foldl (fun m c => m.writeWord .little c.1 c.2) []
  windows := words.map fun c => ⟨c.1.toNat, 4, .ram⟩
  misaligned := .fault
  order := .little
  requests := []

/-- A bus with one window of each kind (00_scope.md R6; log 1, 16, 19, 20): memory, read-only memory, memory that
drops writes, a device. -/
def platform : Bus :=
  { tb [] with windows := [⟨0x1000, 4, .ram⟩, ⟨0x1004, 4, .rom⟩, ⟨0x1008, 4, .sink⟩, ⟨0x2000, 0x10, .device⟩] }

/-- The start state of a vector: Supervisor, the program counter 0x108, some registers, NZCV. -/
def start (regs : List (Reg × Word)) (nzcv : BitVec 4) (bus : Bus := tb []) : State :=
  let s := regs.foldl (fun s r => s.setReg r.1 r.2) ((State.new bus .halt).setPc 0x108)
  { s with cpsr := { s.cpsr with n := nzcv.getLsbD 3, z := nzcv.getLsbD 2, c := nzcv.getLsbD 1, v := nzcv.getLsbD 0 } }

/-- The state the instruction of a word leads to. -/
def run (w : Word) (s : State) : State :=
  match exec (decode w) s with
  | .next t => t
  | .fault _ => s
  | .refused _ => s

/-- The state one step leads to. -/
def stepped (s : State) : State :=
  match step s with
  | .next t => t
  | .fault _ => s
  | .refused _ => s

/-- N, Z, C, V in that order. -/
def flags (s : State) : BitVec 4 := s.readCpsr.extractLsb' 28 4

/-! ## Well-formedness: one ill-formed term for each check -/

theorem test_wf_refuses_swp_of_other_word : (Instr.swp 0xE1410092).wf = false := by decide

theorem test_wf_refuses_swpb_of_other_word : (Instr.swpb 0xE1010092).wf = false := by decide

theorem test_wf_refuses_row4_word_outside : (Instr.undRow4 0xE0400281).wf = false := by decide

theorem test_wf_refuses_row4_word_of_multiply_or_swap :
    (Instr.undRow4 0xE0000291).wf = false ∧ (Instr.undRow4 0xE0810392).wf = false ∧
    (Instr.undRow4 0xE1010092).wf = false ∧ (Instr.undRow4 0xE1410092).wf = false := by decide

theorem test_wf_refuses_row9_word_outside : (Instr.undRow9 0xE1100000).wf = false := by decide

theorem test_wf_refuses_row9_word_of_earlier_row :
    (Instr.undRow9 0xE12FFF1E).wf = false ∧ (Instr.undRow9 0xE1010092).wf = false ∧
    (Instr.undRow9 0xE10000B0).wf = false ∧ (Instr.undRow9 0xE10F0000).wf = false ∧
    (Instr.undRow9 0xE129F000).wf = false ∧ (Instr.undRow9 0xE328F20F).wf = false := by decide

theorem test_wf_refuses_row13_word_outside : (Instr.undRow13 0xE7F000E0).wf = false := by decide

theorem test_wf_refuses_last_row : (Instr.undLast 0xE7F000F0).wf = false := by decide

theorem test_wf_refuses_t_forms_spelled_otherwise :
    (Instr.ldr .al false true true 1 0 (.imm 4)).wf = false ∧
    (Instr.str .al false true true 1 0 (.imm 4)).wf = false ∧
    (Instr.ldrb .al false true true 1 0 (.imm 4)).wf = false ∧
    (Instr.strb .al false true true 1 0 (.imm 4)).wf = false := by decide

/-! ## Decoding: every constructor, from words written out from the formats of 30_encoding.md -/

/-- R86 -/
theorem test_decode_branch_exchange :
    decode 0b1110_000100101111111111110001_1110 = .bx .al 14 := by decide

/-- R87, R88 -/
theorem test_decode_multiply :
    decode 0b1110_000000_0_0_0001_0010_0011_1001_0100 = .mul .al false 1 2 3 4 ∧
    decode 0b0001_000000_1_1_0001_0010_0011_1001_0100 = .mla .ne true 1 2 3 4 ∧
    decode 0b1110_00001_0_0_1_0001_0010_0011_1001_0100 = .umull .al ⟨true, 1, 2, 3, 4⟩ ∧
    decode 0b1110_00001_0_1_0_0001_0010_0011_1001_0100 = .umlal .al ⟨false, 1, 2, 3, 4⟩ ∧
    decode 0b1110_00001_1_0_0_0001_0010_0011_1001_0100 = .smull .al ⟨false, 1, 2, 3, 4⟩ ∧
    decode 0b1110_00001_1_1_1_0001_0010_0011_1001_0100 = .smlal .al ⟨true, 1, 2, 3, 4⟩ := by decide

/-- R90: bits 27:23 = 00010, bits 21:20 = 00, bits 11:8 = 0000; the other words of the row. -/
theorem test_decode_row4 :
    decode 0b1110_00010_0_00_0001_0000_0000_1001_0010 = .swp 0xE1010092 ∧
    decode 0b1110_00010_1_00_0001_0000_0000_1001_0010 = .swpb 0xE1410092 ∧
    decode 0b1110_000001_00_0000_0000_0010_1001_0001 = .undRow4 0xE0400291 ∧
    decode 0b1110_00011_000_0001_0000_0000_1001_0010 = .undRow4 0xE1810092 := by decide

/-- R91 -/
theorem test_decode_load_store_extension :
    decode 0b1110_000_1_1_1_0_0_0001_0010_0011_1_0_1_1_0100 = .strh .al ⟨true, true, true, false, 1, 2, 3, 4⟩ ∧
    decode 0b1110_000_1_0_1_1_1_0001_0010_0011_1_0_1_1_0100 = .ldrh .al ⟨true, false, true, true, 1, 2, 3, 4⟩ ∧
    decode 0b1110_000_0_1_1_0_1_0001_0010_0011_1_1_0_1_0100 = .ldrsb .al ⟨false, true, true, false, 1, 2, 3, 4⟩ ∧
    decode 0b1110_000_1_1_0_0_1_0001_0010_0000_1_1_1_1_0100 = .ldrsh .al ⟨true, true, false, false, 1, 2, 0, 4⟩ ∧
    decode 0b1110_000_1_1_1_0_0_0001_0010_0011_1_1_0_1_0100 = .lseUnnamed .al false ⟨true, true, true, false, 1, 2, 3, 4⟩ ∧
    decode 0b1110_000_1_1_1_0_0_0001_0010_0011_1_1_1_1_0100 = .lseUnnamed .al true ⟨true, true, true, false, 1, 2, 3, 4⟩ := by
  decide

/-- R92 to R95 -/
theorem test_decode_control :
    decode 0b1110_00010_1_001111_0011_000000000000 = .mrs .al true 3 ∧
    decode 0b1110_00010_0_10_1001_1111_00000000_0100 = .msrReg .al false 9 4 ∧
    decode 0b1110_00110_1_10_1000_1111_0010_00001111 = .msrImm .al true 8 ⟨2, 0x0F⟩ ∧
    decode 0b1110_00110_0_00_0000_0000_0000_00000000 = .undRow9 0xE3000000 ∧
    decode 0xE12FFF3E = .undRow9 0xE12FFF3E := by decide

/-- 30_encoding.md R96 to R98, decode row 10: cond 00 1 opcode S Rn Rd rotate imm8. -/
theorem test_decode_data_imm_a :
    decode 0b1110_00_1_0000_1_0001_0110_0011_10100101 = .andImm .al true 1 6 ⟨3, 0xA5⟩ ∧
    decode 0b0011_00_1_0001_0_0010_0111_0011_10100101 = .eorImm .cc false 2 7 ⟨3, 0xA5⟩ ∧
    decode 0b1000_00_1_0010_1_0011_1000_0011_10100101 = .subImm .hi true 3 8 ⟨3, 0xA5⟩ ∧
    decode 0b1101_00_1_0011_0_0100_1001_0011_10100101 = .rsbImm .le false 4 9 ⟨3, 0xA5⟩ ∧
    decode 0b0010_00_1_0100_1_0101_1010_0011_10100101 = .addImm .cs true 5 10 ⟨3, 0xA5⟩ ∧
    decode 0b0111_00_1_0101_0_0110_1011_0011_10100101 = .adcImm .vc false 6 11 ⟨3, 0xA5⟩ ∧
    decode 0b1100_00_1_0110_1_0111_1100_0011_10100101 = .sbcImm .gt true 7 12 ⟨3, 0xA5⟩ ∧
    decode 0b0001_00_1_0111_0_1000_1101_0011_10100101 = .rscImm .ne false 8 13 ⟨3, 0xA5⟩ := by
  decide

/-- 30_encoding.md R96 to R98, decode row 10: cond 00 1 opcode S Rn Rd rotate imm8. -/
theorem test_decode_data_imm_b :
    decode 0b0110_00_1_1000_1_1001_1110_0011_10100101 = .tstImm .vs 9 14 ⟨3, 0xA5⟩ ∧
    decode 0b1011_00_1_1001_1_1010_1111_0011_10100101 = .teqImm .lt 10 15 ⟨3, 0xA5⟩ ∧
    decode 0b0000_00_1_1010_1_1011_0000_0011_10100101 = .cmpImm .eq 11 0 ⟨3, 0xA5⟩ ∧
    decode 0b0101_00_1_1011_1_1100_0001_0011_10100101 = .cmnImm .pl 12 1 ⟨3, 0xA5⟩ ∧
    decode 0b1010_00_1_1100_1_1101_0010_0011_10100101 = .orrImm .ge true 13 2 ⟨3, 0xA5⟩ ∧
    decode 0b1111_00_1_1101_0_1110_0011_0011_10100101 = .movImm .nv false 14 3 ⟨3, 0xA5⟩ ∧
    decode 0b0100_00_1_1110_1_1111_0100_0011_10100101 = .bicImm .mi true 15 4 ⟨3, 0xA5⟩ ∧
    decode 0b1001_00_1_1111_0_0000_0101_0011_10100101 = .mvnImm .ls false 0 5 ⟨3, 0xA5⟩ := by
  decide

/-- 30_encoding.md R96 to R98, decode row 11: cond 00 0 opcode S Rn Rd amount type 0 Rm. -/
theorem test_decode_data_shift_imm_a :
    decode 0b1110_00_0_0000_1_0001_0110_10110_00_0_1001 = .andShImm .al true 1 6 ⟨22, .lsl, 9⟩ ∧
    decode 0b0011_00_0_0001_0_0010_0111_10110_01_0_1001 = .eorShImm .cc false 2 7 ⟨22, .lsr, 9⟩ ∧
    decode 0b1000_00_0_0010_1_0011_1000_10110_10_0_1001 = .subShImm .hi true 3 8 ⟨22, .asr, 9⟩ ∧
    decode 0b1101_00_0_0011_0_0100_1001_10110_11_0_1001 = .rsbShImm .le false 4 9 ⟨22, .ror, 9⟩ ∧
    decode 0b0010_00_0_0100_1_0101_1010_10110_00_0_1001 = .addShImm .cs true 5 10 ⟨22, .lsl, 9⟩ ∧
    decode 0b0111_00_0_0101_0_0110_1011_10110_01_0_1001 = .adcShImm .vc false 6 11 ⟨22, .lsr, 9⟩ ∧
    decode 0b1100_00_0_0110_1_0111_1100_10110_10_0_1001 = .sbcShImm .gt true 7 12 ⟨22, .asr, 9⟩ ∧
    decode 0b0001_00_0_0111_0_1000_1101_10110_11_0_1001 = .rscShImm .ne false 8 13 ⟨22, .ror, 9⟩ := by
  decide

/-- 30_encoding.md R96 to R98, decode row 11: cond 00 0 opcode S Rn Rd amount type 0 Rm. -/
theorem test_decode_data_shift_imm_b :
    decode 0b0110_00_0_1000_1_1001_1110_10110_00_0_1001 = .tstShImm .vs 9 14 ⟨22, .lsl, 9⟩ ∧
    decode 0b1011_00_0_1001_1_1010_1111_10110_01_0_1001 = .teqShImm .lt 10 15 ⟨22, .lsr, 9⟩ ∧
    decode 0b0000_00_0_1010_1_1011_0000_10110_10_0_1001 = .cmpShImm .eq 11 0 ⟨22, .asr, 9⟩ ∧
    decode 0b0101_00_0_1011_1_1100_0001_10110_11_0_1001 = .cmnShImm .pl 12 1 ⟨22, .ror, 9⟩ ∧
    decode 0b1010_00_0_1100_1_1101_0010_10110_00_0_1001 = .orrShImm .ge true 13 2 ⟨22, .lsl, 9⟩ ∧
    decode 0b1111_00_0_1101_0_1110_0011_10110_01_0_1001 = .movShImm .nv false 14 3 ⟨22, .lsr, 9⟩ ∧
    decode 0b0100_00_0_1110_1_1111_0100_10110_10_0_1001 = .bicShImm .mi true 15 4 ⟨22, .asr, 9⟩ ∧
    decode 0b1001_00_0_1111_0_0000_0101_10110_11_0_1001 = .mvnShImm .ls false 0 5 ⟨22, .ror, 9⟩ := by
  decide

/-- 30_encoding.md R96 to R98, decode row 12: cond 00 0 opcode S Rn Rd Rs 0 type 1 Rm. -/
theorem test_decode_data_shift_reg_a :
    decode 0b1110_00_0_0000_1_0001_0110_1100_0_01_1_1001 = .andShReg .al true 1 6 ⟨12, .lsr, 9⟩ ∧
    decode 0b0011_00_0_0001_0_0010_0111_1100_0_10_1_1001 = .eorShReg .cc false 2 7 ⟨12, .asr, 9⟩ ∧
    decode 0b1000_00_0_0010_1_0011_1000_1100_0_11_1_1001 = .subShReg .hi true 3 8 ⟨12, .ror, 9⟩ ∧
    decode 0b1101_00_0_0011_0_0100_1001_1100_0_00_1_1001 = .rsbShReg .le false 4 9 ⟨12, .lsl, 9⟩ ∧
    decode 0b0010_00_0_0100_1_0101_1010_1100_0_01_1_1001 = .addShReg .cs true 5 10 ⟨12, .lsr, 9⟩ ∧
    decode 0b0111_00_0_0101_0_0110_1011_1100_0_10_1_1001 = .adcShReg .vc false 6 11 ⟨12, .asr, 9⟩ ∧
    decode 0b1100_00_0_0110_1_0111_1100_1100_0_11_1_1001 = .sbcShReg .gt true 7 12 ⟨12, .ror, 9⟩ ∧
    decode 0b0001_00_0_0111_0_1000_1101_1100_0_00_1_1001 = .rscShReg .ne false 8 13 ⟨12, .lsl, 9⟩ := by
  decide

/-- 30_encoding.md R96 to R98, decode row 12: cond 00 0 opcode S Rn Rd Rs 0 type 1 Rm. -/
theorem test_decode_data_shift_reg_b :
    decode 0b0110_00_0_1000_1_1001_1110_1100_0_01_1_1001 = .tstShReg .vs 9 14 ⟨12, .lsr, 9⟩ ∧
    decode 0b1011_00_0_1001_1_1010_1111_1100_0_10_1_1001 = .teqShReg .lt 10 15 ⟨12, .asr, 9⟩ ∧
    decode 0b0000_00_0_1010_1_1011_0000_1100_0_11_1_1001 = .cmpShReg .eq 11 0 ⟨12, .ror, 9⟩ ∧
    decode 0b0101_00_0_1011_1_1100_0001_1100_0_00_1_1001 = .cmnShReg .pl 12 1 ⟨12, .lsl, 9⟩ ∧
    decode 0b1010_00_0_1100_1_1101_0010_1100_0_01_1_1001 = .orrShReg .ge true 13 2 ⟨12, .lsr, 9⟩ ∧
    decode 0b1111_00_0_1101_0_1110_0011_1100_0_10_1_1001 = .movShReg .nv false 14 3 ⟨12, .asr, 9⟩ ∧
    decode 0b0100_00_0_1110_1_1111_0100_1100_0_11_1_1001 = .bicShReg .mi true 15 4 ⟨12, .ror, 9⟩ ∧
    decode 0b1001_00_0_1111_0_0000_0101_1100_0_00_1_1001 = .mvnShReg .ls false 0 5 ⟨12, .lsl, 9⟩ := by
  decide

/-- R99, R100: cond 01 I P U B W L Rn Rd offset. -/
theorem test_decode_single_transfer :
    decode 0b1110_011_1111_1_0000_0000_0000_111_1_0000 = .undRow13 0xE7F000F0 ∧
    decode 0b1110_01_0_0_1_0_1_1_0001_0010_000000000100 = .ldrt .al true 1 2 (.imm 4) ∧
    decode 0b1110_01_0_0_0_0_1_0_0001_0010_100000000001 = .strt .al false 1 2 (.imm 0x801) ∧
    decode 0b1110_01_1_0_1_1_1_1_0001_0010_00011_10_0_0101 = .ldrbt .al true 1 2 (.reg ⟨3, .asr, 5⟩) ∧
    decode 0b1110_01_0_0_1_1_1_0_0001_0010_000000000100 = .strbt .al true 1 2 (.imm 4) ∧
    decode 0b1110_01_1_1_0_0_1_1_0001_0010_00011_01_0_0101 = .ldr .al true false true 1 2 (.reg ⟨3, .lsr, 5⟩) ∧
    decode 0b1110_01_0_0_1_0_0_0_0001_0010_000000000100 = .str .al false true false 1 2 (.imm 4) ∧
    decode 0b1110_01_0_1_1_1_0_1_0001_0010_000000000100 = .ldrb .al true true false 1 2 (.imm 4) ∧
    decode 0b1110_01_0_1_0_1_1_0_0001_0010_000000000100 = .strb .al true false true 1 2 (.imm 4) := by decide

/-- R101: cond 100 P U Sb W L Rn list. -/
theorem test_decode_block_transfer :
    decode 0b1110_100_0_1_0_1_1_0001_0000000000100101 = .ldmia .al false true 1 0x25 ∧
    decode 0b1110_100_1_1_1_0_1_0001_0000000000100101 = .ldmib .al true false 1 0x25 ∧
    decode 0b1110_100_0_0_0_0_1_0001_1000000000000001 = .ldmda .al false false 1 0x8001 ∧
    decode 0b1110_100_1_0_0_1_1_0001_0000000000100101 = .ldmdb .al false true 1 0x25 ∧
    decode 0b1110_100_0_1_0_0_0_0001_0000000000100101 = .stmia .al false false 1 0x25 ∧
    decode 0b1110_100_1_1_0_1_0_0001_0000000000100101 = .stmib .al false true 1 0x25 ∧
    decode 0b1110_100_0_0_1_0_0_0001_0000000000100101 = .stmda .al true false 1 0x25 ∧
    decode 0b1110_100_1_0_0_1_0_1101_0100000000010000 = .stmdb .al false true 13 0x4010 := by decide

/-- R102 -/
theorem test_decode_branch :
    decode 0b0001_101_1_111111111111111111110000 = .bl .ne 0xFFFFF0 ∧
    decode 0b1110_101_0_000000000000000000000010 = .b .al 2 := by decide

/-- R103 to R106 -/
theorem test_decode_coprocessor_and_interrupt :
    decode 0b1110_110_1_0_1_0_1_0001_0010_0011_00000100 = .ldc .al ⟨true, false, true, false, 1, 2, 3, 4⟩ ∧
    decode 0b1110_110_0_1_0_1_0_0001_0010_0011_00000100 = .stc .al ⟨false, true, false, true, 1, 2, 3, 4⟩ ∧
    decode 0b1110_1110_0001_0010_0011_0100_101_0_0110 = .cdp .al 1 2 3 4 5 6 ∧
    decode 0b1110_1110_001_0_0010_0011_0100_101_1_0110 = .mcr .al ⟨1, 2, 3, 4, 5, 6⟩ ∧
    decode 0b1110_1110_001_1_0010_0011_0100_101_1_0110 = .mrc .al ⟨1, 2, 3, 4, 5, 6⟩ ∧
    decode 0b1110_1111_000100100011010001010110 = .swi .al 0x123456 := by decide

/-- R107: the last row matches any word and reads it as Undefined; the first match is never this row. -/
theorem test_decode_last_row :
    (rows.getLast?.map fun r => (r.hits 0, r.read 0x5)) = some (true, .undLast 0x5) := by decide

/-- The encoder gives the words of the round trip of 95_test_vectors.md part 4. -/
theorem test_encode_round_trip_words :
    encode (.adcImm .eq true 15 14 ⟨15, 255⟩) = 0x02BFEFFF ∧
    encode (.subShImm .al true 1 2 ⟨31, .lsr, 3⟩) = 0xE0512FA3 ∧
    encode (.eorShReg .al true 4 5 ⟨7, .asr, 6⟩) = 0xE0345756 := by decide

/-- R115: the assembled immediates of the classes that are not executed. -/
theorem test_immediates_of_unexecuted_classes :
    (⟨true, true, true, false, 1, 2, 0xF, 0xE⟩ : ExtensionFields).immOffset = 0xFE ∧
    (⟨true, true, false, false, 1, 2, 3, 0xFF⟩ : CoTransferFields).offset = 0x3FC := by decide

theorem test_decode_refuses_short_bytes :
    (match decodeBytes [0x01, 0x00, 0xA0] with
      | .ok _ => none
      | .error e => some e) = some (DecodeError.tooShort 3) := by decide

theorem test_decode_table_word :
    decodeTableWord 32 0xE3A00001 = some (.movImm .al false 0 0 ⟨0, 1⟩) ∧
    decodeTableWord 16 0x10000 = none ∧ decodeTableWord 40 0 = none := by decide

/-! ## Effects: one step of one instruction -/

/-- 95 part 6.1 -/
theorem test_and : let t := run 0xE0110002 (start [(1, 0x000000F0), (2, 0x0000000F)] 0b0011)
    t.getReg 0 = 0 ∧ flags t = 0b0111 := by decide

theorem test_eor : let t := run 0xE0310002 (start [(1, 0xF0F0F0F0), (2, 0x0FF00FF0)] 0b0000)
    t.getReg 0 = 0xFF00FF00 ∧ flags t = 0b1000 := by decide

/-- 95 parts 1 (S5) and 6.1 -/
theorem test_sub_imm_borrows : let t := run 0xE2510001 (start [] 0b0000)
    t.getReg 0 = 0xFFFFFFFF ∧ flags t = 0b1000 := by decide

theorem test_sub_overflows : let t := run 0xE0510002 (start [(1, 0x80000000), (2, 1)] 0b0000)
    t.getReg 0 = 0x7FFFFFFF ∧ flags t = 0b0011 := by decide

theorem test_rsb_imm : let t := run 0xE2710000 (start [(1, 0x80000000)] 0b0000)
    t.getReg 0 = 0x80000000 ∧ flags t = 0b1001 := by decide

/-- 95 parts 1 (S4) and 6.2: the shift amount and both operands are read before the result is written. -/
theorem test_add_imm_overflows : let t := run 0xE2910001 (start [(1, 0x7FFFFFFF)] 0b0000)
    t.getReg 0 = 0x80000000 ∧ flags t = 0b1001 := by decide

theorem test_add_shift_reg_reads_first : let t := run 0xE0900010 (start [(0, 3)] 0b0000)
    t.getReg 0 = 0x1B ∧ flags t = 0b0000 := by decide

theorem test_adc : let t := run 0xE0B10002 (start [(1, 0xFFFFFFFF), (2, 0xFFFFFFFF)] 0b0010)
    t.getReg 0 = 0xFFFFFFFF ∧ flags t = 0b1010 := by decide

theorem test_sbc : let t := run 0xE0D10002 (start [(1, 0), (2, 0xFFFFFFFF)] 0b0000)
    t.getReg 0 = 0 ∧ flags t = 0b0100 := by decide

theorem test_rsc : let t := run 0xE0F10002 (start [(1, 5), (2, 5)] 0b0000)
    t.getReg 0 = 0xFFFFFFFF ∧ flags t = 0b1000 := by decide

theorem test_tst_imm : let t := run 0xE3110102 (start [(0, 0x55), (1, 0x80000000)] 0b0000)
    t.getReg 0 = 0x55 ∧ flags t = 0b1010 := by decide

theorem test_teq : let t := run 0xE1310002 (start [(0, 0x55), (1, 0xF0F0F0F0), (2, 0x0FF00FF0)] 0b0000)
    t.getReg 0 = 0x55 ∧ flags t = 0b1000 := by decide

theorem test_cmp : let t := run 0xE1510002 (start [(0, 0x55), (1, 3), (2, 5)] 0b0000)
    t.getReg 0 = 0x55 ∧ flags t = 0b1000 := by decide

theorem test_cmn : let t := run 0xE1710002 (start [(0, 0x55), (1, 0x7FFFFFFF), (2, 1)] 0b0000)
    t.getReg 0 = 0x55 ∧ flags t = 0b1001 := by decide

theorem test_orr : let t := run 0xE1910002 (start [] 0b1011)
    t.getReg 0 = 0 ∧ flags t = 0b0111 := by decide

/-- 95 part 5.4 -/
theorem test_mov_rrx : let t := run 0xE1B00061 (start [(1, 1)] 0b0010)
    t.getReg 0 = 0x80000000 ∧ flags t = 0b1010 := by decide

theorem test_mov_lsl_reg_33 : let t := run 0xE1B00211 (start [(1, 0xFFFFFFFF), (2, 0x21)] 0b0010)
    t.getReg 0 = 0 ∧ flags t = 0b0100 := by decide

theorem test_bic : let t := run 0xE1D10002 (start [(1, 0xFFFFFFFF), (2, 0x0FF00FF0)] 0b0000)
    t.getReg 0 = 0xF00FF00F ∧ flags t = 0b1000 := by decide

theorem test_mvn : let t := run 0xE1F00001 (start [(1, 0xFFFFFFFF)] 0b0011)
    t.getReg 0 = 0 ∧ flags t = 0b0111 := by decide

/-- 95 part 6.3: the mode stays, the flags come from the saved word, the flush flag is set. -/
theorem test_return_restores_flags :
    let t := run 0xE1B0F00E { start [(14, 0x200)] 0b0000 with spsr := { SpsrFile.zero with svc := 0xF8000011 } }
    t.pc = 0x200 ∧ t.readCpsr = 0xF8000013 ∧ t.branched = true := by decide

theorem test_compare_to_pc_halts : (run 0xE151F002 (start [(1, 1), (2, 2)] 0b0000)).halted =
    some (.unpredictableEncoding 0xE151F002) := by decide

/-- 95 part 5.2, 5.3: the corners of the shifter. -/
theorem test_shifter_corners :
    shiftByImmediate 0x80000001 .lsr 0 false = ⟨0, true⟩ ∧
    shiftByImmediate 0x80000001 .asr 0 false = ⟨0xFFFFFFFF, true⟩ ∧
    shiftByImmediate 0x80000001 .ror 0 true = ⟨0xC0000000, true⟩ ∧
    shiftByImmediate 0x00000003 .lsl 31 false = ⟨0x80000000, true⟩ ∧
    shiftByRegister 0x80000001 .lsl 32 true = ⟨0, true⟩ ∧
    shiftByRegister 0x80000001 .lsr 33 true = ⟨0, false⟩ ∧
    shiftByRegister 0x7FFFFFFF .asr 200 true = ⟨0, false⟩ ∧
    shiftByRegister 0x12345678 .ror 36 false = ⟨0x81234567, true⟩ ∧
    shiftByRegister 0x80000001 .ror 64 false = ⟨0x80000001, true⟩ ∧
    immediateOperand ⟨15, 0xFF⟩ false = ⟨0x000003FC, false⟩ := by decide

/-- 95 part 7 -/
theorem test_branch_backward : let t := run 0xEA800000 (start [] 0b0000)
    t.pc = 0xFE000108 ∧ t.getReg 14 = 0 ∧ t.branched = true := by decide

theorem test_branch_with_link : let t := run 0xEBFFFFFE (start [(14, 0xAAAAAAAA)] 0b0000)
    t.pc = 0x100 ∧ t.getReg 14 = 0x104 ∧ t.branched = true := by decide

/-- 95 part 8: a post-indexed load, a load with RRX, a load of the pc, a pre-indexed store, a store of the
pc, a fault without write-back. -/
theorem test_ldr_post : let t := run 0xE4110004 (start [(1, 0x1000)] 0 (tb [(0x1000, 0x11110000)]))
    t.getReg 0 = 0x11110000 ∧ t.getReg 1 = 0xFFC ∧ t.busLog = [.read 0x1000 (some 0x11110000)] := by decide

theorem test_ldr_pc : let t := run 0xE591F004 (start [(1, 0x1000)] 0 (tb [(0x1004, 0x11110001)]))
    t.pc = 0x11110001 ∧ t.branched = true := by decide

theorem test_ldrt : let t := run 0xE4B10004 (start [(1, 0x1000)] 0 (tb [(0x1000, 0x11110000)]))
    t.getReg 0 = 0x11110000 ∧ t.getReg 1 = 0x1004 := by decide

theorem test_str_pre_back : let t := run 0xE5A10008 (start [(0, 0xDDDD0000), (1, 0x1000)] 0 (tb [(0x1008, 0)]))
    t.bus.read 0x1008 = some 0xDDDD0000 ∧ t.getReg 1 = 0x1008 := by decide

theorem test_str_pc : let t := run 0xE581F000 (start [(1, 0x1000)] 0 (tb [(0x1000, 0)]))
    t.bus.read 0x1000 = some 0x108 := by decide

theorem test_strt : let t := run 0xE4A10004 (start [(0, 0xDDDD0000), (1, 0x1000)] 0 (tb [(0x1000, 0)]))
    t.bus.read 0x1000 = some 0xDDDD0000 ∧ t.getReg 1 = 0x1004 := by decide

theorem test_ldr_fault : let t := run 0xE5910001 (start [(0, 7), (1, 0x1000)] 0 (tb [(0x1000, 5)]))
    t.getReg 0 = 7 ∧ t.halted = some (.busFault 0x1001 .read) := by decide

theorem test_byte_forms_halt :
    let s := start [(1, 0x1000)] 0 (tb [(0x1000, 5)])
    (run 0xE5D10000 s).halted = some (.unimplementedInstruction 0xE5D10000) ∧
    (run 0xE5C10000 s).halted = some (.unimplementedInstruction 0xE5C10000) ∧
    (run 0xE4F10004 s).halted = some (.unimplementedInstruction 0xE4F10004) ∧
    (run 0xE4E10004 s).halted = some (.unimplementedInstruction 0xE4E10004) := by decide

/-- A write to memory that drops it is answered Ok and changes nothing; a write to read-only memory is answered
Fault (log 16). -/
theorem test_str_dropped_or_refused :
    let dropped := run 0xE5810000 (start [(0, 7), (1, 0x1008)] 0 platform)
    let refused := run 0xE5810000 (start [(0, 7), (1, 0x1004)] 0 platform)
    dropped.halted = none ∧ dropped.bus = platform ∧ dropped.busLog = [.write 0x1008 7 true] ∧
    refused.halted = some (.busFault 0x1004 .write) ∧ refused.bus = platform := by decide

/-- An access to a device is recorded among its requests, at the address as presented (20_memory.md R65, R70). -/
theorem test_device_access_is_recorded :
    (platform.afterRead 0x2000).requests = [.read 0x2000] ∧
    (platform.afterWrite 0x2001 7).requests = [.write 0x2001 7] ∧ (platform.afterRead 0x1000).requests = [] := by
  refine ⟨by decide, ?_, by decide⟩
  cases h : platform.accepts 0x2001 7 <;>
    simp only [Bus.afterWrite, h, show platform.device 0x2001 = true by decide] <;> rfl

/-- 95 part 9: the four modes, load and store. -/
theorem test_ldm_increment :
    let ia := run 0xE8B10005 (start [(1, 0x1000)] 0 (tb [(0x1000, 0xC0DE1000), (0x1004, 0xC0DE1004)]))
    let ib := run 0xE9B10005 (start [(1, 0x0FFC)] 0 (tb [(0x1000, 0xC0DE1000), (0x1004, 0xC0DE1004)]))
    ia.getReg 0 = 0xC0DE1000 ∧ ia.getReg 2 = 0xC0DE1004 ∧ ia.getReg 1 = 0x1008 ∧
    ib.getReg 0 = 0xC0DE1000 ∧ ib.getReg 2 = 0xC0DE1004 ∧ ib.getReg 1 = 0x1004 := by decide

theorem test_ldm_decrement :
    let da := run 0xE8310005 (start [(1, 0x1004)] 0 (tb [(0x1000, 0xC0DE1000), (0x1004, 0xC0DE1004)]))
    let db := run 0xE9310005 (start [(1, 0x1008)] 0 (tb [(0x1000, 0xC0DE1000), (0x1004, 0xC0DE1004)]))
    da.getReg 0 = 0xC0DE1000 ∧ da.getReg 2 = 0xC0DE1004 ∧ da.getReg 1 = 0x0FFC ∧
    db.getReg 0 = 0xC0DE1000 ∧ db.getReg 2 = 0xC0DE1004 ∧ db.getReg 1 = 0x1000 := by decide

theorem test_stm_increment :
    let ia := run 0xE8A10005 (start [(0, 0xAB0), (1, 0x1000), (2, 0xAB2)] 0 (tb [(0x1000, 0), (0x1004, 0)]))
    let ib := run 0xE9A10005 (start [(0, 0xAB0), (1, 0x0FFC), (2, 0xAB2)] 0 (tb [(0x1000, 0), (0x1004, 0)]))
    ia.bus.read 0x1000 = some 0xAB0 ∧ ia.bus.read 0x1004 = some 0xAB2 ∧ ia.getReg 1 = 0x1008 ∧
    ib.bus.read 0x1000 = some 0xAB0 ∧ ib.bus.read 0x1004 = some 0xAB2 ∧ ib.getReg 1 = 0x1004 := by decide

theorem test_stm_decrement :
    let da := run 0xE8210005 (start [(0, 0xAB0), (1, 0x1004), (2, 0xAB2)] 0 (tb [(0x1000, 0), (0x1004, 0)]))
    let db := run 0xE9210005 (start [(0, 0xAB0), (1, 0x1008), (2, 0xAB2)] 0 (tb [(0x1000, 0), (0x1004, 0)]))
    da.bus.read 0x1000 = some 0xAB0 ∧ da.bus.read 0x1004 = some 0xAB2 ∧ da.getReg 1 = 0x0FFC ∧
    db.bus.read 0x1000 = some 0xAB0 ∧ db.bus.read 0x1004 = some 0xAB2 ∧ db.getReg 1 = 0x1000 := by decide

theorem test_ldm_fault_keeps_prefix :
    let t := run 0xE8B10025 (start [(1, 0x1000)] 0 (tb [(0x1000, 9), (0x1004, 8)]))
    t.getReg 0 = 9 ∧ t.getReg 2 = 8 ∧ t.getReg 5 = 0 ∧ t.getReg 1 = 0x1000 ∧
    t.halted = some (.busFault 0x1008 .read) := by decide

theorem test_block_halts :
    (run 0xE8D10025 (start [(1, 0x1000)] 0)).halted = some (.unimplementedInstruction 0xE8D10025) ∧
    (run 0xE8B10003 (start [(1, 0x1000)] 0)).halted = some (.unpredictableEncoding 0xE8B10003) := by decide

/-- The instruction of the word halts the core of State.reset for want of a meaning. -/
def haltsUnimplemented (w : Word) : Bool :=
  (run w State.reset).halted == some (.unimplementedInstruction w)

/-- 95 part 10: every class that is not executed halts, with nothing else changed. -/
theorem test_unexecuted_halt_multiply_and_control :
    haltsUnimplemented 0xE0000291 = true ∧
    haltsUnimplemented 0xE0303291 = true ∧
    haltsUnimplemented 0xE0810392 = true ∧
    haltsUnimplemented 0xE0A10392 = true ∧
    haltsUnimplemented 0xE0C10392 = true ∧
    haltsUnimplemented 0xE0E10392 = true ∧
    haltsUnimplemented 0xE10F0000 = true ∧
    haltsUnimplemented 0xE129F000 = true ∧
    haltsUnimplemented 0xE328F20F = true := by decide

theorem test_unexecuted_halt_extension :
    haltsUnimplemented 0xE12FFF1E = true ∧
    haltsUnimplemented 0xE1C100B0 = true ∧
    haltsUnimplemented 0xE1D100B0 = true ∧
    haltsUnimplemented 0xE1D100D0 = true ∧
    haltsUnimplemented 0xE1D100F0 = true ∧
    haltsUnimplemented 0xE1C100D0 = true := by decide

theorem test_unexecuted_halt_coprocessor :
    haltsUnimplemented 0xED910000 = true ∧
    haltsUnimplemented 0xED810000 = true ∧
    haltsUnimplemented 0xEE000000 = true ∧
    haltsUnimplemented 0xEE010F10 = true ∧
    haltsUnimplemented 0xEE110F10 = true := by decide

theorem test_unexecuted_halt_interrupt_and_undefined :
    haltsUnimplemented 0xEF123456 = true ∧
    haltsUnimplemented 0xE7F000F0 = true ∧
    haltsUnimplemented 0xE1000000 = true ∧
    haltsUnimplemented 0xE1010092 = true ∧
    haltsUnimplemented 0xE1410092 = true := by decide

theorem test_unexecuted_changes_nothing_else :
    run 0xEF000000 State.reset = { State.reset with halted := some (.unimplementedInstruction 0xEF000000) } := by
  decide

theorem test_failed_condition : run 0x0F000000 (start [] 0b0000) = start [] 0b0000 := by decide

/-- 95 part 12, B1 to B3, B7, B8 -/
theorem test_banking :
    let s := (((State.reset.setMode .fiq).hostWriteReg 13 0xF1F1F1F1).setMode .svc).hostWriteReg 13 0x53535353
    s.hostReadReg 13 = 0x53535353 ∧ (s.setMode .fiq).hostReadReg 13 = 0xF1F1F1F1 ∧
    (s.setMode .usr).hostReadReg 13 = 0 ∧ (s.setMode .sys).hostReadReg 13 = 0 := by decide

theorem test_store_spsr : ((start [] 0b1010).setMode .irq).storeSpsr.spsr =
    { SpsrFile.zero with irq := 0xA0000012 } := by decide

/-- 95 part 13, R2 -/
theorem test_host_reset :
    let s := { ((start [(0, 5)] 0b1111).setMode .fiq).hostWriteReg 14 0x99 with halted := some (.unpredictableEncoding 0) }
    s.hostReset.readCpsr = 0x13 ∧ s.hostReset.getReg 0 = 0 ∧ s.hostReset.getReg 14 = 0 ∧ s.hostReset.pc = 0 ∧
    s.hostReset.halted = none := by decide

/-- 95 part 1, S7: the step that executes the first word. -/
theorem test_step_executes :
    let s := { start [] 0b0000 (tb [(8, 0)]) with
      regs := RegFile.zero.set (.r 15) 8, fetched := .word 0, decoded := .instr (decode 0xE3A00001) }
    let t := stepped s
    t.getReg 0 = 1 ∧ t.pc = 12 ∧ t.fetched = .word 0 ∧ t.decoded = .instr (decode 0) ∧
    t.busLog = [.read 8 (some 0)] := by decide

/-- 95 part 13, R5, Step 5: the deferred fetch fault is raised. -/
theorem test_step_raises_fetch_fault :
    (stepped { State.reset with fetched := .fetchFault 0xC, decoded := .fetchFault 0x8 }).halted =
      some (.busFault 0x8 .fetch) := by decide

/-- 70_reset_and_hazards.md R304: the placed word is the very next to run. -/
theorem test_with_fetch_word :
    let s := State.reset.withFetchWord 32 0xE3A00001
    s.decoded = .instr (decode 0xE3A00001) ∧ s.pc = 8 ∧ s.bus.read 0 = some 0xE3A00001 ∧
    (stepped s).getReg 0 = 1 := by decide

/-! ## Witnesses: for every statement with hypotheses, a state and operands that meet them all, one for each clause -/

theorem witness_EncodingDecodesBack :
    (Instr.swi .al 0x123456).wf = true ∧ (Instr.ldr .al true false true 1 2 (.imm 4)).wf = true ∧
    (Instr.swp 0xE1010092).wf = true ∧ (Instr.swpb 0xE1410092).wf = true ∧ (Instr.undRow4 0xE0400291).wf = true ∧
    (Instr.undRow9 0xE1000000).wf = true ∧ (Instr.undRow13 0xE7F000F0).wf = true := by decide

/-- An immediate with bits 7 and 4 set; a register operand with only bit 7, with only bit 4. -/
theorem witness_DataProcessFieldsSurvive :
    ¬ (compares .tst = true ∧ true = false) ∧ ¬ (compares .mov = true ∧ false = false) ∧
    ¬ (true = false ∧ (0x090#12).getLsbD 7 = true ∧ (0x090#12).getLsbD 4 = true) ∧
    ¬ (false = false ∧ (0x080#12).getLsbD 7 = true ∧ (0x080#12).getLsbD 4 = true) ∧
    ¬ (false = false ∧ (0x010#12).getLsbD 7 = true ∧ (0x010#12).getLsbD 4 = true) := by decide

theorem witness_RegisterReadFollowsBanking :
    (State.reset.setMode .usr).cpsr.mode = .usr ∧ (State.reset.setMode .sys).cpsr.mode = .sys ∧
    (State.reset.setMode .fiq).cpsr.mode = .fiq ∧ (State.reset.setMode .und).cpsr.mode ∈ [Mode.irq, .svc, .abt, .und] ∧
    (State.reset.setMode .irq).cpsr.mode = .irq ∧ State.reset.cpsr.mode = .svc ∧
    (State.reset.setMode .abt).cpsr.mode = .abt ∧ (State.reset.setMode .und).cpsr.mode = .und ∧
    ((7 : Fin 16) < 8 ∨ (7 : Fin 16) = 15) ∧ ((12 : Fin 16) < 13 ∨ (12 : Fin 16) = 15) := by decide

theorem witness_StoreSpsrWritesTheActiveSlotOnly :
    (State.reset.setMode .sys).cpsr.mode = .sys ∧ (State.reset.setMode .fiq).cpsr.mode ≠ .usr ∧
    (State.reset.setMode .fiq).cpsr.mode ≠ .sys ∧ Mode.und ≠ (State.reset.setMode .fiq).cpsr.mode := by decide

theorem witness_NewIsZeroedAndFetchesAtZero :
    (State.new (tb []) .halt).spsr.slot .und = some 0 ∧ (tb []).device 0 = false := by decide

theorem witness_ResetOperationZeroesAllButOneLinkRegister :
    PhysReg.und 1 ≠ phys State.reset.cpsr.mode 14 ∧ State.reset.hostReset.spsr.slot .abt = some 0 := by decide

theorem witness_FailedConditionIsNoOp :
    conditionPasses (Instr.swi .eq 0).cond State.reset.cpsr = false ∧
    conditionPasses (Instr.undRow13 0xF7F000F0).cond State.reset.cpsr = false := by decide

theorem witness_ImmediateOperandRotates : 31 < 32 ∧ (⟨0, 0xFF⟩ : ImmOperand).rotate = 0 := by decide

/-- LeftShiftAndRotateByImmediate, RightShiftByImmediate: the amounts at the ends of both clauses. -/
theorem witness_shifts_by_immediate : (0#5 : BitVec 5) = 0 ∧ 1#5 ≠ 0 ∧ 31#5 ≠ 0 ∧ 30 < 31 := by decide

theorem witness_RegisterShiftSaturates :
    let n (v : Word) := ((start [(3, v)] 0).getReg 3).toNat % 256
    n 0x100 = 0 ∧ (1 ≤ n 1 ∧ n 1 ≤ 31) ∧ (1 ≤ n 31 ∧ n 31 ≤ 31) ∧ n 32 = 32 ∧ 33 ≤ n 33 ∧ 33 ≤ n 255 := by decide

theorem witness_RegisterRotateIsModulo32 :
    let n (v : Word) := ((start [(3, v)] 0).getReg 3).toNat % 256
    (32 ≤ n 32 ∧ n 32 % 32 = 0) ∧ (32 ≤ n 33 ∧ n 33 % 32 ≠ 0) ∧ (32 ≤ n 255 ∧ n 255 % 32 ≠ 0) := by decide

theorem witness_LogicalResultAndFlags : 31 < 32 ∧ Opcode.mvn ∈ [Opcode.and, .eor, .tst, .teq, .orr, .mov, .bic, .mvn] := by
  decide

theorem witness_AdditionResultAndFlags :
    (Opcode.adc = .add ∨ Opcode.adc = .cmn ∨ Opcode.adc = .adc) ∧
    (Opcode.cmn = .add ∨ Opcode.cmn = .cmn ∨ Opcode.cmn = .adc) ∧ Opcode.cmn ≠ .adc := by decide

theorem witness_SubtractionResultAndFlags :
    (Opcode.rsc = .sub ∨ Opcode.rsc = .cmp ∨ Opcode.rsc = .rsb ∨ Opcode.rsc = .sbc ∨ Opcode.rsc = .rsc) ∧
    (Opcode.cmp = .sub ∨ Opcode.cmp = .cmp) := by decide

theorem witness_SourceBoundaryExamples :
    (start [(1, 0x7FFFFFFF)] 0).getReg 1 = 0x7FFFFFFF ∧ (start [(1, 0)] 0).getReg 1 = 0 := by decide

/-- The last clause's hypothesis is met by a return that restores other flags. -/
theorem witness_FlagsWrittenOnlyWithSAndNotForThePc :
    let s := { start [(14, 0x200)] 0b0000 with spsr := { SpsrFile.zero with svc := 0x60000013 } }
    conditionPasses .al s.cpsr = true ∧ sBit .mov false = false ∧ sBit .tst false = true ∧ (1 : Reg) ≠ 15 ∧
    (run 0xE1B0F00E s).cpsr ≠ s.cpsr ∧
    (0xE1000000 : Word).extractLsb' 23 2 = 0b10 ∧ (0xE1000000 : Word).getLsbD 20 = false := by decide

theorem witness_DataProcessWritesItsDestination :
    conditionPasses .al State.reset.cpsr = true ∧ compares .mov = false ∧ (14 : Reg) ≠ 15 := by decide

theorem witness_CompareWritesOnlyFlags :
    conditionPasses .al State.reset.cpsr = true ∧ compares .cmp = true ∧ (0 : Reg) ≠ 15 := by decide

theorem witness_DataProcessJumpWithoutS :
    conditionPasses .al State.reset.cpsr = true ∧ compares .add = false := by decide

theorem witness_DataProcessReturnRestoresFlags :
    conditionPasses .al State.reset.cpsr = true ∧ compares .sub = false ∧
    State.reset.spsr.slot State.reset.cpsr.mode = some 0 := by decide

theorem witness_UnpredictableDataProcessHalts :
    conditionPasses .al (State.reset.setMode .sys).cpsr = true ∧ (State.reset.setMode .sys).cpsr.mode = .sys ∧
    (State.reset.setMode .usr).cpsr.mode = .usr ∧ compares .teq = true := by decide

theorem witness_BranchDisplacementIsFourTimesOffset : 26 ≤ 26 ∧ 31 < 32 := by decide

theorem witness_BranchGoesToItsTarget : conditionPasses .ne State.reset.cpsr = true := by decide

theorem witness_BranchNeverFaults :
    (Instr.b .al 0).cls = .branch ∧ (Instr.bl .eq 0).cls = .branch ∧
    conditionPasses (Instr.bl .eq 0).cond State.reset.cpsr = false := by decide

/-- A word transfer without write-back (Rn = Rd allowed), and one post-indexed with write-back. -/
theorem witness_LoadWordCompletes :
    let t : SingleTransfer := ⟨false, true, false, false, true, 1, 15, .imm 4⟩
    let t' : SingleTransfer := ⟨true, true, false, false, true, 1, 1, .imm 4⟩
    let s := start [(1, 0x1000)] 0 (tb [(0x1000, 5), (0x1004, 6)])
    conditionPasses .al s.cpsr = true ∧ (t.rn ≠ t.rd ∧ t.rn ≠ 15) ∧ s.bus.read (s.getReg t.rn) = some 5 ∧
    (!t'.p || t'.w) = false ∧ s.bus.read (s.getReg t'.rn + transferOffset t'.off s) = some 6 ∧
    s.bus.device (s.getReg t.rn) = false := by decide

theorem witness_StoreWordCompletes :
    let t : SingleTransfer := ⟨true, false, false, true, false, 1, 15, .imm 4⟩
    let s := start [(1, 0x1004)] 0 (tb [(0x1000, 5)])
    conditionPasses .al s.cpsr = true ∧ (t.rn ≠ t.rd ∧ t.rn ≠ 15) ∧
    s.bus.accepts (s.getReg t.rn - transferOffset t.off s) (s.getReg t.rd) = true ∧
    s.bus.storesAt (s.getReg t.rn - transferOffset t.off s) = some 0x1000 ∧
    s.bus.device (s.getReg t.rn - transferOffset t.off s) = false ∧
    ¬ (∃ k < 4, 0x1004 = byteAddress 0x1000 k) ∧
    -- the write of a dropped word
    platform.accepts 0x1008 7 = true ∧ platform.storesAt 0x1008 = none ∧ platform.device 0x1008 = false := by decide

theorem witness_ByteTransferHalts :
    conditionPasses .al State.reset.cpsr = true ∧
    (⟨true, true, true, false, true, 1, 0, .imm 0⟩ : SingleTransfer).b = true := by decide

theorem witness_UnpredictableTransferHalts :
    let t : SingleTransfer := ⟨false, true, false, false, true, 1, 1, .imm 4⟩
    let t' : SingleTransfer := ⟨true, true, false, true, false, 15, 0, .imm 4⟩
    conditionPasses .al State.reset.cpsr = true ∧ (t.p = false ∨ t.w = true) ∧ (t.rn = t.rd ∨ t.rn = 15) ∧
    (t'.p = false ∨ t'.w = true) ∧ (t'.rn = t'.rd ∨ t'.rn = 15) := by decide

/-- FaultedTransferHalts, IgnoredFaultGoesOn: with the policy halt, and with ignore, a read and a write that fault. -/
theorem witness_faulted_transfers :
    let t : SingleTransfer := ⟨true, true, false, false, true, 1, 0, .imm 0x20⟩
    let s := start [(1, 0x1000)] 0 (tb [(0x1000, 5)])
    conditionPasses .al s.cpsr = true ∧ s.policy = .halt ∧ { s with policy := .ignore }.policy = .ignore ∧
    ((t.p = false ∨ t.w = true) → t.rn ≠ t.rd ∧ t.rn ≠ 15) ∧
    s.bus.read (s.getReg t.rn + transferOffset t.off s) = none ∧
    s.bus.accepts (s.getReg t.rn + transferOffset t.off s) (s.getReg t.rd) = false ∧
    s.bus.device (s.getReg t.rn + transferOffset t.off s) = false := by decide

/-- The last clause of IgnoredFaultGoesOn: a load and a store of two registers, one access of each answered and one
faulted, no device. -/
theorem witness_IgnoredFaultGoesOn :
    let t (l : Bool) : BlockTransfer := ⟨false, true, false, true, l, 1, 0x8001⟩
    let s := { start [(1, 0x1000)] 0 (tb [(0x1000, 5)]) with policy := .ignore }
    conditionPasses .al s.cpsr = true ∧ (t true).rn ≠ 15 ∧ (t true).list.getLsbD (t true).rn.toNat = false ∧
    s.policy = .ignore ∧
    (t true).faultsAt s 0 = false ∧ (t true).faultsAt s 15 = true ∧ (t false).faultsAt s 0 = false ∧
    (t false).faultsAt s 15 = true ∧ s.bus.storesAt ((t false).addressOf s 0) = some 0x1000 ∧
    (∀ i : Reg, (t true).list.getLsbD i.toNat = true → s.bus.device ((t true).addressOf s i) = false) ∧
    ¬ (∃ k < 4, 0x1004 = byteAddress 0x1000 k) := by decide

theorem witness_BlockLoadCompletes :
    let t : BlockTransfer := ⟨false, true, false, true, true, 1, 0x8001⟩
    let s := start [(1, 0x1000)] 0 (tb [(0x1000, 5), (0x1004, 6)])
    conditionPasses .al s.cpsr = true ∧ (t.rn ≠ 15 ∧ t.list.getLsbD t.rn.toNat = false) ∧
    (∀ i : Reg, t.list.getLsbD i.toNat = true → (t.busAt s i).read (t.addressOf s i) ≠ none) ∧
    ∀ i : Reg, t.list.getLsbD i.toNat = true → s.bus.device (t.addressOf s i) = false := by decide

theorem witness_BlockStoreCompletes :
    let t : BlockTransfer := ⟨true, false, false, true, false, 1, 0x8001⟩
    let s := start [(1, 0x1008)] 0 (tb [(0x1000, 5), (0x1004, 6)])
    conditionPasses .al s.cpsr = true ∧ (t.rn ≠ 15 ∧ t.list.getLsbD t.rn.toNat = false) ∧
    (∀ i : Reg, t.list.getLsbD i.toNat = true →
      (t.busAt s i).accepts (t.addressOf s i) (s.getReg i) = true ∧ s.bus.storesAt (t.addressOf s i) ≠ none ∧
      s.bus.device (t.addressOf s i) = false) ∧
    ∀ k < 4, 0x1008 ≠ byteAddress 0x1000 k ∧ 0x1008 ≠ byteAddress 0x1004 k := by decide

theorem witness_BlockFormsWithoutMeaningHalt :
    let t : BlockTransfer := ⟨false, true, false, true, true, 15, 1⟩
    let t' : BlockTransfer := ⟨false, true, false, true, true, 1, 3⟩
    conditionPasses .al State.reset.cpsr = true ∧ (t.rn = 15 ∨ t.list.getLsbD t.rn.toNat = true) ∧
    (t'.rn = 15 ∨ t'.list.getLsbD t'.rn.toNat = true) ∧
    (⟨false, true, true, true, true, 1, 3⟩ : BlockTransfer).sb = true := by decide

theorem witness_EmptyBlockChangesNothing :
    let t : BlockTransfer := ⟨true, false, false, true, false, 1, 0⟩
    t.list = 0 ∧ t.sb = false ∧ t.rn ≠ 15 := by decide

/-- A load and a store whose second transfer faults, and a load whose first one does. -/
theorem witness_BlockFaultKeepsThePrefix :
    let t (l : Bool) : BlockTransfer := ⟨false, true, false, true, l, 1, 0x0025⟩
    let s := start [(1, 0x1000)] 0 (tb [(0x1000, 5)])
    conditionPasses .al s.cpsr = true ∧ ((t true).rn ≠ 15 ∧ (t true).list.getLsbD (t true).rn.toNat = false) ∧
    s.policy = .halt ∧ (t true).list.getLsbD (2 : Reg).toNat = true ∧
    (∀ i ∈ (t true).before 2, (t true).faultsAt s i = false) ∧ (t true).faultsAt s 2 = true ∧
    (∀ i ∈ (t false).before 2, (t false).faultsAt s i = false ∧ s.bus.storesAt ((t false).addressOf s i) ≠ none) ∧
    (t false).faultsAt s 2 = true ∧
    (∀ i ∈ 2 :: (t true).before 2, s.bus.device ((t true).addressOf s i) = false) ∧
    (t true).before 0 = [] ∧ (t true).faultsAt { s with bus := tb [] } 0 = true := by decide

theorem witness_UnexecutedClassesHalt :
    (Instr.swi .al 0).cls.executed = false ∧ conditionPasses (Instr.swi .al 0).cond State.reset.cpsr = true ∧
    (Instr.undRow9 0xE1000000).cls.executed = false ∧
    conditionPasses (Instr.undRow9 0xE1000000).cond State.reset.cpsr = true := by decide

/-- One address for each clause: memory that keeps a word, memory that drops one, memory that refuses one, a device. -/
theorem witness_StoredWordReadsBackAlone :
    platform.storesAt 0x1000 = some 0x1000 ∧ platform.device 0x1008 = false ∧ platform.storesAt 0x1008 = none ∧
    platform.accepts 0x1004 7 = false ∧ platform.device 0x2000 = true ∧ platform.device 0x200F = true ∧ platform.device 0x2010 = false ∧
    (∀ k < 4, 0x1004 ≠ byteAddress 0x1000 k) ∧ platform.mem.wf = true := by decide

theorem witness_CanonicalMemoriesThatReadAlikeAreEqual :
    Memory.wf [(0, 1), (2 ^ 32 - 1, 255)] = true ∧ 2 ^ 32 - 1 < 2 ^ 32 := by decide

/-- A core with an instruction decoded, of each kind: one that goes on, one that flushes, one that halts. -/
theorem witness_StepRunsTheDecodedInstruction :
    ∀ i ∈ [Instr.movImm .al false 0 0 ⟨0, 1⟩, .b .al 0, .swi .al 0],
      let s := { State.reset with decoded := .instr i }
      s.halted = none ∧ s.decoded = .instr i ∧ ∃ t, exec i { s with branched := false } = .next t := by
  intro i hi
  simp only [List.mem_cons, List.not_mem_nil, or_false] at hi
  rcases hi with rfl | rfl | rfl <;> exact ⟨rfl, rfl, _, rfl⟩

/-- WordAtProgramCounterRunsInThirdStep and, on a bus with nothing mapped, FetchFaultIsDeferredToExecution. -/
theorem witness_start_up :
    let s := State.new (tb [(0, 5)]) .halt
    s.halted = none ∧ s.branched = false ∧ s.fetched = .none ∧ s.decoded = .none ∧ s.bus.read s.pc = some 5 ∧
    s.bus.device s.pc = false ∧ s.bus.device (s.pc + 4) = false ∧
    (State.new (tb []) .halt).bus.read (State.new (tb []) .halt).pc = none := by decide

/-- Meets the hypotheses of WordAtProgramCounterRunsInThirdStep down to its last clause. -/
theorem witness_WordAtProgramCounterRunsInThirdStep :
    ∃ t, exec (decode 5) (stepped (stepped (State.new (tb [(0, 5)]) .halt))) = .next t := ⟨_, rfl⟩

/-- The first four clauses: a faulted fetch in the slot decoded; an instruction that goes on and whose step's fetch
faults; one with nothing decoded; a faulted fetch in the slot fetched, in a step that goes on and in one that flushes. -/
theorem witness_FetchFaultIsDeferredToExecution :
    let s := { State.new (tb []) .halt with decoded := .fetchFault 4 }
    s.halted = none ∧ s.decoded = .fetchFault 4 ∧
    (let s := { State.new (tb []) .halt with decoded := .instr (.movImm .al false 0 0 ⟨0, 1⟩) }
      let t := run 0xE3A00001 { s with branched := false }
      s.halted = none ∧ t.halted = none ∧ t.branched = false ∧ t.bus.read t.pc = none) ∧
    (let s := { State.new (tb []) .halt with fetched := .word 5 };
      s.halted = none ∧ s.decoded = .none ∧ s.bus.read s.pc = none) ∧
    ∀ d ∈ [DecodeSlot.none, .instr (.b .al 0)],
      let s := { State.new (tb []) .halt with fetched := .fetchFault 4, decoded := d }
      s.halted = none ∧ s.fetched = .fetchFault 4 ∧ (stepped s).halted = none := by decide

theorem witness_FlushKeepsTheWrittenTarget :
    let s := { State.reset with decoded := .instr (.b .al 0) }
    s.halted = none ∧ (run 0xEA000000 { s with branched := false }).branched = true ∧
    (run 0xEA000000 { s with branched := false }).halted = none := by decide

/-- One step with nothing decoded, one that flushes and one whose instruction goes on. -/
theorem witness_FetchedWordIsNotRefetched :
    (∀ d ∈ [DecodeSlot.none, .instr (.b .al 0), .instr (.movImm .al false 0 0 ⟨0, 1⟩)],
      let s := { State.reset with fetched := .word 5, decoded := d }
      s.halted = none ∧ s.fetched = .word 5 ∧ (stepped s).halted = none) ∧
    ∃ u, exec (.movImm .al false 0 0 ⟨0, 1⟩) { State.reset with branched := false } = .next u :=
  ⟨by decide, _, rfl⟩

/-- That statement's clause about a fetch from no device. -/
theorem witness_fetch_without_device :
    let s := { State.new (tb [(0, 5)]) .halt with fetched := .word 5 }
    s.halted = none ∧ (stepped s).halted = none ∧ s.bus.device ((stepped s).pc - 4) = false := by decide

theorem witness_HaltedCoreNeverMoves :
    { State.reset with halted := some (.unpredictableEncoding 0) }.halted ≠ none := by decide

/-- A state other than the one after New that meets the invariant: FIQ mode, a saved status word, a word stored,
an instruction decoded. -/
def invariantExample : State :=
  { State.reset.setMode .fiq with
    spsr := { SpsrFile.zero with fiq := 0xA0000011 }
    bus := tb [(0, 5)]
    fetched := .word 5
    decoded := .instr (.movImm .al false 0 0 ⟨0, 1⟩) }

/-- For StepKeepsTheMachineInvariant and HostOperationsKeepTheMachineInvariant. -/
theorem witness_invariant : invariantExample.Inv ∧ ∃ t, step invariantExample = .next t := by
  refine ⟨⟨by decide, ⟨rfl, rfl, rfl, rfl, rfl⟩, ?_, by decide, ?_, rfl⟩, _, rfl⟩
  · intro m w h
    cases m <;> simp [invariantExample, SpsrFile.slot, SpsrFile.zero, spsrShape] at h ⊢ <;> subst h <;> decide
  · rintro i h
    cases h
    rfl

theorem witness_NewMeetsTheMachineInvariant : (tb [(0, 5), (0x1000, 0)]).mem.wf = true := by decide

end Sys2Proof.Tests
end

section
/-! PROOFS. What the core keeps and what its named operations yield (00_scope.md): the addition unit of
R12, the bus and its side effects of R6, and what no instruction changes. -/

namespace Sys2Proof.Machine

/-! ### AddWithCarry (00_scope.md R12) -/

theorem addWithCarry_toNat (x y : Word) (c : Bool) :
    (addWithCarry x y c).value.toNat = (x.toNat + y.toNat + c.toNat) % 2 ^ 32 :=
  BitVec.toNat_ofNat _ _

theorem addWithCarry_carry (x y : Word) (c : Bool) :
    (addWithCarry x y c).carry = true ↔ 2 ^ 32 ≤ x.toNat + y.toNat + c.toNat :=
  decide_eq_true_iff

/-- The sum word, read as signed, is the exact signed sum brought into range. -/
theorem addWithCarry_toInt (x y : Word) (c : Bool) :
    (addWithCarry x y c).value.toInt = (x.toInt + y.toInt + c.toNat).bmod (2 ^ 32) := by
  have hout : (addWithCarry x y c).value = x + y + BitVec.ofNat 32 c.toNat := by
    simp [addWithCarry, BitVec.ofNat_add]
  have hc : (BitVec.ofNat 32 c.toNat).toInt = c.toNat := by cases c <;> rfl
  rw [hout, BitVec.toInt_add, BitVec.toInt_add, hc, Int.bmod_add_bmod]

/-- The overflow is 1 exactly when the signed sum leaves the range of a word. -/
theorem addWithCarry_overflow (x y : Word) (c : Bool) :
    (addWithCarry x y c).overflow = true ↔
      x.toInt + y.toInt + c.toNat < -2 ^ 31 ∨ 2 ^ 31 ≤ x.toInt + y.toInt + c.toNat := by
  have hdef : (addWithCarry x y c).overflow = true ↔
      x.toInt + y.toInt + c.toNat ≠ (addWithCarry x y c).value.toInt := decide_eq_true_iff
  rw [hdef, addWithCarry_toInt, Int.bmod_def]
  omega

theorem getLsbD_31_eq_toInt_neg (x : Word) : x.getLsbD 31 = decide (x.toInt < 0) :=
  x.msb_eq_getLsbD_last.symm.trans x.msb_eq_toInt

/-- Without a carry in, the overflow is 1 exactly when the operands agree in sign and the result does not. -/
theorem addWithCarry_overflow_signs (x y : Word) :
    (addWithCarry x y false).overflow = true ↔
      x.getLsbD 31 = y.getLsbD 31 ∧ (addWithCarry x y false).value.getLsbD 31 ≠ x.getLsbD 31 := by
  have hx := x.le_toInt
  have hx' := x.toInt_lt
  have hy := y.le_toInt
  have hy' := y.toInt_lt
  simp only [addWithCarry_overflow, getLsbD_31_eq_toInt_neg, addWithCarry_toInt, Int.bmod_def, decide_eq_decide, ne_eq,
    Bool.toNat_false]
  omega

/-- Settles O22: the three opcodes are AddWithCarry of the operands and their third addend. -/
theorem additionResultAndFlags : Obligations.AdditionResultAndFlags := by
  intro op a b carryIn vOld hop
  obtain rfl | rfl | rfl := hop
  · exact ⟨addWithCarry_toNat _ _ _, addWithCarry_carry _ _ _, addWithCarry_overflow _ _ _,
      fun _ => addWithCarry_overflow_signs _ _⟩
  · exact ⟨addWithCarry_toNat _ _ _, addWithCarry_carry _ _ _, addWithCarry_overflow _ _ _,
      fun _ => addWithCarry_overflow_signs _ _⟩
  · exact ⟨addWithCarry_toNat _ _ _, addWithCarry_carry _ _ _, addWithCarry_overflow _ _ _, fun h => absurd rfl h⟩

/-! ### The bus (00_scope.md R6) -/

/-- A read of a device's address is a request that device has had. -/
theorem Bus.afterRead_requests {b : Bus} {a : Word} (h : b.device a = true) :
    (b.afterRead a).requests = .read a :: b.requests := by
  rw [Bus.afterRead, if_pos h]
  rfl

/-- A write to a device's address is a request that device has had, whatever it answers. -/
theorem Bus.afterWrite_requests {b : Bus} {a : Word} (h : b.device a = true) (v : Word) :
    (b.afterWrite a v).requests = .write a v :: b.requests := by
  rw [Bus.afterWrite, if_pos h]
  split <;> rfl

/-- Settles O50, clause by clause from the laws of the bus. -/
theorem storedWordReadsBackAlone : Obligations.StoredWordReadsBackAlone := by
  intro b a v
  refine ⟨fun t ht => ⟨Bus.accepts_of_kept ht v, Bus.write_reads_back ht v, fun n hn => ?_⟩,
    fun hd => ⟨Bus.afterRead_plain hd, fun hs => Bus.afterWrite_dropped hd hs v, ?_⟩, Bus.afterWrite_faulted,
    fun hd => ⟨Bus.afterRead_requests hd, Bus.afterWrite_requests hd v⟩, fun b' hb' => ?_⟩
  · rw [Bus.afterWrite_kept ht v]
    exact Memory.readByte_writeWord_outside _ _ _ _ hn
  · rw [Bus.afterWrite_plain hd v]
  · have hmoved : b.Moved b' := by
      obtain rfl | rfl := List.mem_pair.mp hb'
      · exact b.moved_afterRead a
      · exact b.moved_afterWrite a v
    exact ⟨hmoved.mapping, hmoved.memory⟩

/-! ### Single transfers (44_single_data_transfer.md R210) -/

/-- A transfer with no meaning is one that writes back to its own destination or to the program counter. -/
theorem SingleTransfer.unpredictable_eq_false_iff (t : SingleTransfer) :
    t.unpredictable = false ↔ (t.p = false ∨ t.w = true → t.rn ≠ t.rd ∧ t.rn ≠ 15) := by
  simp only [SingleTransfer.unpredictable, SingleTransfer.writesBack, Bool.and_eq_false_imp, Bool.or_eq_true,
    Bool.not_eq_true', Bool.or_eq_false_iff, beq_eq_false_iff_ne]

/-- What a word transfer with a meaning does when it is executed: its one access, then its register writes. -/
theorem exec_wordTransfer {c : Cond} {t : SingleTransfer} {s : State} (hc : conditionPasses c s.cpsr = true)
    (hb : t.b = false) (hu : t.unpredictable = false) :
    exec (singleInstr c t) s = .next (
      if t.l then
        (s.memRead (t.address s)).andThen fun v s' => t.updateBase (t.computed s) (s'.writeReg t.rd v)
      else
        (s.memWrite (t.address s) (s.getReg t.rd)).andThen fun _ s' => t.updateBase (t.computed s) s') := by
  rw [exec_singleInstr, singleTransfer, conditionally_pass hc]
  simp [hb, hu]

/-- A faulted read under the policy halt (20_memory.md R62, R67). -/
theorem State.memRead_faulted {s : State} {a : Word} (hp : s.policy = .halt) (hr : s.bus.read a = none) :
    s.memRead a = .halted { s with
      bus := s.bus.afterRead a
      busLog := .read a none :: s.busLog
      halted := some (.busFault a .read) } := by
  obtain ⟨_, hw, _⟩ | ⟨_, _, he⟩ | ⟨_, hi, _⟩ := s.memRead_cases a
  · cases hr.symm.trans hw
  · rw [he, State.portRead, hr]
    rfl
  · cases hp.symm.trans hi

/-- A faulted write under the policy halt (20_memory.md R63, R67). -/
theorem State.memWrite_faulted {s : State} {a v : Word} (hp : s.policy = .halt) (hw : s.bus.accepts a v = false) :
    s.memWrite a v = .halted { s with
      bus := s.bus.afterWrite a v
      busLog := .write a v false :: s.busLog
      halted := some (.busFault a .write) } := by
  obtain ⟨ha | hi, _⟩ | ⟨_, _, he⟩ := s.memWrite_cases a v
  · cases hw.symm.trans ha
  · cases hp.symm.trans hi
  · rw [he, State.portWrite, hw]
    rfl

/-- Settles O40: the access halts, and what would follow it, the register writes, does not happen. -/
theorem faultedTransferHalts : Obligations.FaultedTransferHalts := by
  intro c t s offset computed address hc hb hu hp
  have hexec := exec_wordTransfer hc hb (t.unpredictable_eq_false_iff.mpr hu)
  refine ⟨fun hl (hr : s.bus.read (t.address s) = none) => ?_,
    fun hl (hw : s.bus.accepts (t.address s) (s.getReg t.rd) = false) => ?_,
    fun hw => ⟨?_, (s.bus.moved_afterWrite _ _).mapping⟩,
    fun hd => ⟨Bus.afterRead_plain hd, Bus.afterWrite_refused hd⟩⟩
  · rw [hexec, if_pos hl, State.memRead_faulted hp hr]
    rfl
  · rw [hexec, if_neg (by simp [hl]), State.memWrite_faulted hp hw]
    rfl
  · rw [Bus.afterWrite_faulted hw]

/-! ### What no instruction and no step changes (60_exceptions.md R293) -/

/-- Every step answers a next state, with what is not its to change as it was. -/
theorem step_kept (s : State) : ∃ t, step s = .next t ∧ t.cpsr.mode = s.cpsr.mode ∧ t.spsr = s.spsr ∧
    t.cpsr.res = s.cpsr.res ∧ t.policy = s.policy ∧ MappingKept s.bus t.bus := by
  obtain ⟨_, hstep⟩ | ⟨_, u, hu, hstep⟩ := step_cases s
  · exact ⟨s, hstep, rfl, rfl, rfl, rfl, .refl _⟩
  · have hk := hu.coreKept
    obtain ⟨hcpsr, hspsr, hpolicy, _, hbus⟩ := completeStep_kept u
    exact ⟨_, hstep, by rw [hcpsr, hk.mode], hspsr.trans hk.spsr, by rw [hcpsr, hk.res],
      hpolicy.trans hk.policy, hk.bus.mapping.trans hbus.mapping⟩

/-- Settles O49: exec by its five shapes, a step by its execution and its completion. -/
theorem everyInstructionAnswersAndKeepsModeAndSpsr :
    Obligations.EveryInstructionAnswersAndKeepsModeAndSpsr := by
  refine ⟨fun i s => ?_, step_kept⟩
  obtain ⟨t, ht⟩ := exec_next i s
  have hk := coreKept_exec ht
  exact ⟨t, ht, hk.mode, hk.spsr, hk.res, hk.fetched, hk.decoded, hk.policy, hk.bus.mapping⟩

end Sys2Proof.Machine
end

section
/-! PROOFS. What the decoder reads from every word (30_encoding.md R84): an instruction of its own row, and data
processing never from a word with opcode 10xx and S = 0. -/

namespace Sys2Proof

/-! ### Rows and the bits they fix -/

/-- A word that matches (m, p) matches every (m', p') that asks for no other bits and agrees with `p` on its own. -/
theorem Word.hits_of_subsumed {w m p m' p' : Word} (h : w.hits m p = true) (hm : m &&& m' = m')
    (hp : p &&& m' = p') : w.hits m' p' = true := by
  simp only [Word.hits, beq_iff_eq] at h ⊢
  rw [← hp, ← h, BitVec.and_assoc, hm]

/-- A word that matches (m, p) still matches when the word's own bit `k` is asked for too. -/
theorem Word.hits_fixBit {w m p : Word} (h : w.hits m p = true) (k : Nat) :
    w.hits (m ||| .twoPow 32 k) (p ||| if w.bit k = true then .twoPow 32 k else 0) = true := by
  simp only [Word.hits, beq_iff_eq] at h ⊢
  rw [BitVec.and_or_distrib_left, h, BitVec.and_twoPow]
  rfl

/-- A word that misses (m, p) with bit `k` fixed to 0 and with it fixed to 1 misses (m, p). -/
theorem Word.misses_of_halves {w m p : Word} (k : Nat) (h0 : w.hits (m ||| .twoPow 32 k) (p ||| 0) = false)
    (h1 : w.hits (m ||| .twoPow 32 k) (p ||| .twoPow 32 k) = false) : w.hits m p = false := by
  rw [Bool.eq_false_iff]
  intro h
  have hk := Word.hits_fixBit h k
  split at hk
  · rw [h1] at hk; cases hk
  · rw [h0] at hk; cases hk

/-! ### The first row that matches -/

/-- What the first matching row of a list reads from `w`, where one matches, satisfies `P`. -/
def FirstReads (P : Instr → Prop) (w : Word) (rs : List Row) : Prop :=
  ∀ r, rs.find? (·.hits w) = some r → P (r.read w)

theorem FirstReads.append {P : Instr → Prop} {w : Word} {rs rs' : List Row} (h : FirstReads P w rs)
    (h' : (∀ q ∈ rs, q.hits w = false) → FirstReads P w rs') : FirstReads P w (rs ++ rs') := by
  intro r hr
  rw [List.find?_append] at hr
  cases hf : rs.find? (·.hits w) with
  | some q =>
    rw [hf] at hr
    cases hr
    exact h r hf
  | none =>
    rw [hf] at hr
    exact h' (by simpa using hf) r hr

theorem firstReads_of_forall {P : Instr → Prop} {w : Word} {rs : List Row}
    (h : ∀ r ∈ rs, r.hits w = true → P (r.read w)) : FirstReads P w rs :=
  fun r hr => h r (List.mem_of_find?_eq_some hr) (List.find?_some (p := fun r : Row => r.hits w) hr)

/-- The decoder reads the first row of the table that matches (30_encoding.md R84). -/
theorem decode_of_firstReads {P : Instr → Prop} {w : Word} (h : FirstReads P w rows) : P (decode w) := by
  obtain ⟨r, hr⟩ := Option.isSome_iff_exists.mp (find_row_isSome w)
  rw [decode_of_find hr]
  exact h r hr

/-! ### The rows before the last take every word -/

/-- The row takes every word that matches (m, p). -/
def Row.takesAll (m p : Word) (r : Row) : Bool := m &&& r.mask == r.mask && p &&& r.mask == r.pattern

theorem Row.hits_of_takesAll {m p w : Word} {r : Row} (h : r.takesAll m p = true) (hw : w.hits m p = true) :
    r.hits w = true := by
  simp only [Row.takesAll, Bool.and_eq_true, beq_iff_eq] at h
  exact Word.hits_of_subsumed hw h.1 h.2

/-- Some row takes every word that matches (m, p), or does so for either value of the next bit of `ks`. -/
def covers : List Nat → List Row → Word → Word → Bool
  | [], rs, m, p => rs.any (Row.takesAll m p)
  | k :: ks, rs, m, p => rs.any (Row.takesAll m p) ||
      covers ks (rs.filter fun r => !r.pattern.getLsbD k) (m ||| .twoPow 32 k) (p ||| 0) &&
      covers ks (rs.filter fun r => !r.mask.getLsbD k || r.pattern.getLsbD k) (m ||| .twoPow 32 k)
        (p ||| .twoPow 32 k)

/-- Rows that cover (m, p) take every word that matches it. -/
theorem exists_hits_of_covers {w : Word} : ∀ {ks : List Nat} {rs : List Row} {m p : Word},
    covers ks rs m p = true → w.hits m p = true → ∃ r ∈ rs, r.hits w = true := by
  have hany : ∀ {rs : List Row} {m p : Word}, rs.any (Row.takesAll m p) = true → w.hits m p = true →
      ∃ r ∈ rs, r.hits w = true := fun h hw =>
    have ⟨r, hr, ht⟩ := List.any_eq_true.mp h
    ⟨r, hr, Row.hits_of_takesAll ht hw⟩
  intro ks
  induction ks with
  | nil => exact hany
  | cons k ks ih =>
    intro rs m p hc hw
    simp only [covers, Bool.or_eq_true, Bool.and_eq_true] at hc
    obtain h | ⟨h0, h1⟩ := hc
    · exact hany h hw
    · have hk := Word.hits_fixBit hw k
      split at hk
      · obtain ⟨r, hr, hit⟩ := ih h1 hk
        exact ⟨r, List.mem_of_mem_filter hr, hit⟩
      · obtain ⟨r, hr, hit⟩ := ih h0 hk
        exact ⟨r, List.mem_of_mem_filter hr, hit⟩

/-- Bits 27 to 20, 4 and 7 bring every word to a row before the last (30_encoding.md R107). -/
theorem exists_row_before_last (w : Word) : ∃ r ∈ rows.take 92, r.hits w = true :=
  exists_hits_of_covers (show covers [27, 26, 25, 24, 23, 22, 21, 20, 4, 7] (rows.take 92) 0 0 = true by decide)
    (by simp [Word.hits])

/-! ### The decoder reads well-formed instructions -/

/-- A word of a single transfer that is no T form has P = 1 or W = 0 (44_single_data_transfer.md R221). -/
theorem Word.bit24_or_not_bit21 {w p : Word} (h : w.hits 0x0C500000 p = true)
    (hT : w.hits (0x0C500000 ||| .twoPow 32 24 ||| .twoPow 32 21) (p ||| 0 ||| .twoPow 32 21) = false) :
    (w.bit 24 || !w.bit 21) = true := by
  cases h24 : w.bit 24 with
  | true => rfl
  | false =>
    cases h21 : w.bit 21 with
    | false => rfl
    | true =>
      have hfix := Word.hits_fixBit (Word.hits_fixBit h 24) 21
      simp only [h24, h21, Bool.false_eq_true, if_false, if_true] at hfix
      rw [hT] at hfix
      cases hfix

/-- Row 4 reads only words that rows 2 and 3 and the swaps leave to it (30_encoding.md R90). -/
theorem wf_rowsMultiply (w : Word) : FirstReads (·.wf = true) w rowsMultiply := by
  rw [← List.take_append_drop 9 rowsMultiply]
  refine .append (firstReads_of_forall ?_) fun hmiss => firstReads_of_forall ?_
  · simp [rowsMultiply, Row.hits, Instr.wf]
  · simp only [rowsMultiply, List.take_succ_cons, List.take_zero, List.forall_mem_cons, Row.hits] at hmiss
    obtain ⟨-, hmul, hmla, humull, humlal, hsmull, hsmlal, hswp, hswpb, -⟩ := hmiss
    have hrow2 : w.hits 0x0FC000F0 0x00000090 = false := Word.misses_of_halves 21 hmul hmla
    have hrow3 : w.hits 0x0F8000F0 0x00800090 = false :=
      Word.misses_of_halves 22 (Word.misses_of_halves 21 humull humlal) (Word.misses_of_halves 21 hsmull hsmlal)
    simp only [rowsMultiply, List.drop_succ_cons, List.drop_zero, List.forall_mem_singleton, Row.hits, Instr.wf]
    intro hit
    simp only [Word.inRow4Remainder, hit, hrow2, hrow3, hswp, hswpb, Bool.not_false, Bool.and_self]

/-- Row 9 reads only words that rows 1 and 4 to 8 leave to it (30_encoding.md R95). -/
theorem wf_rowsControl {w : Word} (hmiss : ∀ q ∈ rowsMultiply, q.hits w = false) :
    FirstReads (·.wf = true) w rowsControl := by
  rw [← List.take_append_drop 8 rowsControl]
  refine .append (firstReads_of_forall ?_) fun hmiss' => firstReads_of_forall ?_
  · simp [rowsControl, Instr.wf]
  · simp only [rowsMultiply, List.forall_mem_cons, Row.hits] at hmiss
    obtain ⟨hrow1, -, -, -, -, -, -, -, -, hrow4, -⟩ := hmiss
    simp only [rowsControl, List.take_succ_cons, List.take_zero, List.forall_mem_cons, Row.hits] at hmiss'
    obtain ⟨-, -, -, -, hrow5, hrow6, hrow7, hrow8, -⟩ := hmiss'
    simp only [rowsControl, List.drop_succ_cons, List.drop_zero, List.forall_mem_singleton, Row.hits, Instr.wf]
    intro hit
    simp only [Word.inRow9Remainder, hit, hrow1, hrow4, hrow5, hrow6, hrow7, hrow8, Bool.not_false, Bool.and_self]

/-- LDR, STR, LDRB and STRB read only words that the T forms leave to them (44_single_data_transfer.md R221 to R226). -/
theorem wf_rowsTransfer (w : Word) : FirstReads (·.wf = true) w rowsTransfer := by
  rw [← List.take_append_drop 5 rowsTransfer]
  refine .append (firstReads_of_forall ?_) fun hmiss => firstReads_of_forall ?_
  · simp [rowsTransfer, Row.hits, Instr.wf]
  · simp only [rowsTransfer, List.take_succ_cons, List.take_zero, List.forall_mem_cons] at hmiss
    obtain ⟨-, hldrt, hstrt, hldrbt, hstrbt, -⟩ := hmiss
    simp only [rowsTransfer, List.drop_succ_cons, List.drop_zero, List.forall_mem_cons]
    exact ⟨fun h => Word.bit24_or_not_bit21 h hldrt, fun h => Word.bit24_or_not_bit21 h hstrt,
      fun h => Word.bit24_or_not_bit21 h hldrbt, fun h => Word.bit24_or_not_bit21 h hstrbt,
      by simp [Instr.wf]⟩

/-- A row that reads every word as a well-formed instruction does so whichever rows missed before. -/
theorem firstReads_wf_of_all {w : Word} {rs : List Row} (h : rs.all (fun r => (r.read w).wf) = true) :
    FirstReads (·.wf = true) w rs :=
  firstReads_of_forall fun r hr _ => List.all_eq_true.mp h r hr

/-- Every word decodes to an instruction of its own row (30_encoding.md R84). -/
theorem decode_wf (w : Word) : (decode w).wf = true := by
  refine decode_of_firstReads (P := (·.wf = true)) ?_
  have hbefore : FirstReads (·.wf = true) w (rows.take 92) :=
    (wf_rowsMultiply w).append fun hmiss => (wf_rowsControl hmiss).append fun _ =>
      (firstReads_wf_of_all (rs := rowsDataImm) rfl).append fun _ =>
      (firstReads_wf_of_all (rs := rowsDataShImm) rfl).append fun _ =>
      (firstReads_wf_of_all (rs := rowsDataShReg) rfl).append fun _ =>
      (wf_rowsTransfer w).append fun _ => firstReads_wf_of_all (rs := rowsTail.take 8) rfl
  rw [← List.take_append_drop 92 rows]
  refine hbefore.append fun hmiss => ?_
  obtain ⟨r, hr, hit⟩ := exists_row_before_last w
  rw [hmiss r hr] at hit
  cases hit

/-! ### Opcode 10xx with S = 0 is no data processing (42_data_processing.md R176) -/

/-- The row fixes bit 20, 24 or 23 so that none of its words has opcode 10xx with S = 0 (30_encoding.md R97). -/
def Row.excludesTestWithoutS (r : Row) : Bool :=
  r.mask.getLsbD 20 && r.pattern.getLsbD 20 || r.mask.getLsbD 24 && !r.pattern.getLsbD 24
    || r.mask.getLsbD 23 && r.pattern.getLsbD 23

theorem rows_excludesTestWithoutS (w : Word) :
    rows.all (fun r => r.excludesTestWithoutS || !decide ((r.read w).cls = .dataProcess)) = true := by
  simp only [rows, List.all_append, Bool.and_eq_true]
  exact ⟨rfl, rfl, rfl, rfl, rfl, rfl, rfl⟩

theorem decode_cls_ne_dataProcess {w : Word} (hop : w.extractLsb' 23 2 = 0b10) (hS : w.getLsbD 20 = false) :
    (decode w).cls ≠ .dataProcess := by
  have h24 : w.getLsbD 24 = true := by simpa using congrArg (·.getLsbD 1) hop
  have h23 : w.getLsbD 23 = false := by simpa using congrArg (·.getLsbD 0) hop
  refine decode_of_firstReads (P := (·.cls ≠ .dataProcess)) (firstReads_of_forall fun r hr hit => ?_)
  obtain hexcl | hcls := Bool.or_eq_true_iff.mp (List.all_eq_true.mp (rows_excludesTestWithoutS w) r hr)
  · simp only [Row.excludesTestWithoutS, Bool.or_eq_true, Bool.and_eq_true, Bool.not_eq_true'] at hexcl
    obtain (⟨m20, p20⟩ | ⟨m24, p24⟩) | ⟨m23, p23⟩ := hexcl
    · cases hS.symm.trans ((Word.getLsbD_of_hits hit m20).trans p20)
    · cases h24.symm.trans ((Word.getLsbD_of_hits hit m24).trans p24)
    · cases h23.symm.trans ((Word.getLsbD_of_hits hit m23).trans p23)
  · simpa using hcls

end Sys2Proof
end

section
/-! PROOFS. The state and the operations on it (10_state.md): the invariant of R43, the banking map, the status words,
the start, and the flags a data-processing instruction leaves. -/

namespace Sys2Proof.Machine

/-! ### Status words (10_state.md R29 to R32) -/

/-- The CPSR word above its mode field. -/
theorem Cpsr.word_extract_upper (p : Cpsr) : p.word.extractLsb' 5 27 =
    BitVec.ofBool p.n ++ BitVec.ofBool p.z ++ BitVec.ofBool p.c ++ BitVec.ofBool p.v ++ BitVec.ofBool p.q
      ++ p.res ++ BitVec.ofBool p.i ++ BitVec.ofBool p.f ++ BitVec.ofBool p.t :=
  BitVec.extractLsb'_append_eq_left

@[simp] theorem Cpsr.word_extract_mode (p : Cpsr) : p.word.extractLsb' 0 5 = p.mode.tag :=
  BitVec.extractLsb'_append_eq_right

/-- A CPSR word with only the flags and the mode set in it is a legal SPSR of its mode (10_state.md R31, R32). -/
theorem spsrShape_word {p : Cpsr} (h : p.storageClear) : spsrShape p.mode p.word := by
  refine .inr ⟨?_, p.word_extract_mode⟩
  obtain ⟨hq, hres, hi, hf, ht⟩ := h
  rw [Cpsr.word, hq, hres, hi, hf, ht]
  generalize BitVec.ofBool p.n ++ BitVec.ofBool p.z ++ BitVec.ofBool p.c ++ BitVec.ofBool p.v = nzcv
  generalize p.mode.tag = tag
  revert nzcv tag
  decide

/-- Bits 27 to 5 of a legal SPSR are 0. -/
theorem spsrShape.getLsbD_eq_false {m : Mode} {w : Word} (h : spsrShape m w) {k : Nat} (hk : 5 ≤ k) (hk' : k < 28) :
    w.getLsbD k = false := by
  obtain rfl | ⟨hclear, _⟩ := h
  · exact BitVec.getLsbD_zero
  · have hbit := congrArg (·.getLsbD (k - 5)) hclear
    simpa [show k - 5 < 23 by omega, show 5 + (k - 5) = k by omega] using hbit

/-- RestoreFlags from a legal SPSR writes 0 to Q, I, F and T (10_state.md R41). -/
theorem Cpsr.restore_storage {m : Mode} {w : Word} (h : spsrShape m w) (p : Cpsr) :
    (p.restore w).storage = (false, false, false, false) := by
  simp (disch := omega) only [storage, restore, h.getLsbD_eq_false]

theorem Cpsr.storageClear_iff (p : Cpsr) :
    p.storageClear ↔ p.storage = (false, false, false, false) ∧ p.res = 0 := by
  simp only [storageClear, storage, Prod.mk.injEq]
  tauto

/-! ### The invariant along a step (10_state.md R43) -/

/-- With legal SPSRs no instruction sets Q, RES, I, F or T. -/
theorem CoreKept.storageClear {s t : State} (hk : CoreKept s t) (hs : s.Inv) : t.cpsr.storageClear := by
  obtain ⟨hclear, hres⟩ := s.cpsr.storageClear_iff.mp hs.storage
  refine t.cpsr.storageClear_iff.mpr ⟨?_, hk.res.trans hres⟩
  obtain he | ⟨w, hw, he⟩ := hk.storage
  · exact he.trans hclear
  · exact he.trans (s.cpsr.restore_storage (hs.slots _ w hw))

/-- What the controller decodes came from a word. -/
theorem FetchSlot.wf_of_decodeNow {f : FetchSlot} {i : Instr} (h : f.decodeNow = .instr i) : i.wf = true := by
  cases f with
  | none => cases h
  | word w =>
    cases h
    exact decode_wf w
  | fetchFault a => cases h

/-- A fetch never leaves the slot empty. -/
theorem State.advance_fetched_ne_none (s : State) : s.advance.fetched ≠ .none := by
  rw [advance_fetched]
  split <;> nofun

theorem State.completeStep_branched (s : State) : s.completeStep.branched = false := by
  obtain ⟨_, he⟩ | ⟨_, _, he⟩ | ⟨_, hb, he⟩ := s.completeStep_cases <;> rw [he]
  · rfl
  · exact hb

theorem State.completeStep_pipeline {s : State} (h : s.fetched = .none → s.decoded = .none) :
    s.completeStep.fetched = .none → s.completeStep.decoded = .none := by
  obtain ⟨_, he⟩ | ⟨_, _, he⟩ | ⟨_, _, he⟩ := s.completeStep_cases <;> rw [he]
  · exact h
  · exact fun _ => rfl
  · exact fun hf => absurd hf s.advance_fetched_ne_none

theorem State.completeStep_decodedWf {s : State} (h : ∀ i, s.decoded = .instr i → i.wf = true) :
    ∀ i, s.completeStep.decoded = .instr i → i.wf = true := by
  obtain ⟨_, he⟩ | ⟨_, _, he⟩ | ⟨_, _, he⟩ := s.completeStep_cases <;> rw [he]
  · exact h
  · exact fun _ hi => by cases hi
  · exact fun _ => FetchSlot.wf_of_decodeNow

/-- Settles O58: execution keeps what `CoreKept` says, and the completion fills the slots from words alone. -/
theorem stepKeepsTheMachineInvariant : Obligations.StepKeepsTheMachineInvariant := by
  intro s t hs hstep
  obtain ⟨_, he⟩ | ⟨_, u, hu, he⟩ := step_cases s <;> cases he.symm.trans hstep
  · exact hs
  · have hk := hu.coreKept
    obtain ⟨hcpsr, hspsr, _, _, hbus⟩ := completeStep_kept u
    exact {
      memory := hbus.memory (hk.bus.memory hs.memory)
      storage := hcpsr ▸ hk.storageClear hs
      slots := by
        rw [hspsr, hk.spsr]
        exact hs.slots
      pipeline := State.completeStep_pipeline (by
        rw [hk.fetched, hk.decoded]
        exact hs.pipeline)
      decodedWf := State.completeStep_decodedWf (by
        rw [hk.decoded]
        exact hs.decodedWf)
      flag := u.completeStep_branched }

/-! ### The invariant at the start and under the host's operations -/

theorem SpsrFile.zero_slot {m : Mode} {w : Word} (h : SpsrFile.zero.slot m = some w) : w = 0 := by
  cases m <;> cases h <;> rfl

/-- A core as New and Reset leave it but for its registers meets the invariant where memory is canonical. -/
theorem State.inv_of_cleared {s : State} (hmem : s.bus.mem.wf = true) (hcpsr : s.cpsr = .afterNew)
    (hspsr : s.spsr = .zero) (hdecoded : s.decoded = .none) (hflag : s.branched = false) : s.Inv where
  memory := hmem
  storage := by
    rw [hcpsr]
    exact ⟨rfl, rfl, rfl, rfl, rfl⟩
  slots := by
    intro m w hw
    rw [hspsr] at hw
    exact .inl (SpsrFile.zero_slot hw)
  pipeline := fun _ => hdecoded
  decodedWf := by
    intro i hi
    rw [hdecoded] at hi
    cases hi
  flag := hflag

/-- Settles O59: New on any bus leaves a cleared core. -/
theorem newMeetsTheMachineInvariant : Obligations.NewMeetsTheMachineInvariant :=
  ⟨fun _ _ hmem => State.inv_of_cleared hmem rfl rfl rfl rfl, State.inv_of_cleared rfl rfl rfl rfl rfl⟩

/-- StoreSPSR puts a legal word into the active slot. -/
theorem State.storeSpsr_inv {s : State} (hs : s.Inv) : s.storeSpsr.Inv := by
  refine { hs with slots := fun m w hw => ?_ }
  rw [storeSpsr_spsr, SpsrFile.slot_setSlot] at hw
  split at hw
  · next hm =>
    obtain ⟨_, _, rfl⟩ := Option.map_eq_some_iff.mp hw
    exact hm ▸ spsrShape_word hs.storage
  · exact hs.slots m w hw

/-- Settles O60: SetMode and WriteReg touch nothing the invariant speaks of, and Reset starts afresh on the same bus. -/
theorem hostOperationsKeepTheMachineInvariant : Obligations.HostOperationsKeepTheMachineInvariant :=
  fun _ hs => ⟨fun _ => { hs with }, State.storeSpsr_inv hs, fun _ _ => { hs with },
    State.inv_of_cleared hs.memory rfl rfl rfl rfl⟩

/-! ### The register file (10_state.md R23 to R28) -/

theorem phys_unbanked {m : Mode} (hm : m = .usr ∨ m = .sys) (k : Fin 16) : phys m (BitVec.ofNat 4 k) = .r k := by
  obtain rfl | rfl := hm <;> revert k <;> decide

theorem phys_fiq_unbanked : ∀ k : Fin 16, k < 8 ∨ k = 15 → phys .fiq (BitVec.ofNat 4 k) = .r k := by decide

theorem phys_fiq_banked : ∀ k : Fin 7, phys .fiq (BitVec.ofNat 4 (8 + k)) = .fiq k := by decide

theorem phys_exception_unbanked {m : Mode} (hm : m ∈ [Mode.irq, .svc, .abt, .und]) :
    ∀ k : Fin 16, k < 13 ∨ k = 15 → phys m (BitVec.ofNat 4 k) = .r k := by
  revert hm
  cases m <;> decide

/-- The two registers that IRQ, Supervisor, Abort and Undefined each have of their own. -/
theorem phys_exception_banked : ∀ k : Fin 2,
    phys .irq (BitVec.ofNat 4 (13 + k)) = .irq k ∧ phys .svc (BitVec.ofNat 4 (13 + k)) = .svc k ∧
    phys .abt (BitVec.ofNat 4 (13 + k)) = .abt k ∧ phys .und (BitVec.ofNat 4 (13 + k)) = .und k := by decide

theorem State.getReg_of_phys {s : State} {m : Mode} {i : Reg} {p : PhysReg} (hm : s.cpsr.mode = m) (hp : phys m i = p) :
    s.getReg i = s.regs.get p := by
  rw [State.getReg, hm, hp]

/-- Settles O7, from the banking map mode by mode. -/
theorem registerReadFollowsBanking : Obligations.RegisterReadFollowsBanking := by
  intro s logical
  refine ⟨fun hm k => State.getReg_of_phys rfl (phys_unbanked hm k),
    fun hm => ⟨fun k hk => State.getReg_of_phys hm (phys_fiq_unbanked k hk),
      fun k => State.getReg_of_phys hm (phys_fiq_banked k)⟩,
    fun hm k hk => State.getReg_of_phys rfl (phys_exception_unbanked hm k hk), fun k => ?_, fun _ => rfl⟩
  obtain ⟨hirq, hsvc, habt, hund⟩ := phys_exception_banked k
  exact ⟨fun hm => State.getReg_of_phys hm hirq, fun hm => State.getReg_of_phys hm hsvc,
    fun hm => State.getReg_of_phys hm habt, fun hm => State.getReg_of_phys hm hund⟩

/-- Settles O8: r15 and the other registers apart. -/
theorem registerWriteReachesOnePhysicalRegister : Obligations.RegisterWriteReachesOnePhysicalRegister := by
  intro s i v
  refine ⟨by simp, fun p hp => ?_, ?_, ?_⟩
  · rw [State.regs_writeReg, if_neg (by simpa using hp)]
  · by_cases hi : i = 15
    · subst hi
      rw [State.writeReg_pc]
      rfl
    · rw [State.writeReg_of_ne hi, decide_eq_false hi]
      rfl
  · rw [State.writeReg_regs]
    rfl

/-- A register written in one mode and a register read in another: the value, where both are the same physical
register (10_state.md R23, R36). -/
theorem State.read_after_write_across_modes (s : State) (m m' : Mode) (i j : Reg) (v : Word) :
    (((s.setMode m).hostWriteReg i v).setMode m').hostReadReg j =
      if phys m' j = phys m i then v else (s.setMode m').hostReadReg j :=
  RegFile.get_set _ _ _ _

/-- Settles O9: r13 of FIQ and r13 of Supervisor are different physical registers, r15 is the same one everywhere. -/
theorem bankedRegistersStaySeparate : Obligations.BankedRegistersStaySeparate := by
  intro s a b m m'
  simp only [State.read_after_write_across_modes]
  exact ⟨if_neg (by decide), if_neg (by decide), if_pos (by rw [phys_pc, phys_pc])⟩

/-! ### The operations on the status words (10_state.md R36 to R39) -/

/-- Settles O10: the mode is one field of the CPSR, and the low five bits of its word. -/
theorem modeChangeMovesNoData : Obligations.ModeChangeMovesNoData :=
  fun s m => ⟨rfl, fun _ => rfl, Cpsr.word_extract_mode _,
    (s.setMode m).cpsr.word_extract_upper.trans s.cpsr.word_extract_upper.symm⟩

/-- Settles O11: each field appended below shifts those above it. -/
theorem cpsrWordLayout : Obligations.CpsrWordLayout := by
  intro s p tag
  have htag : p.mode.tag.setWidth 32 = tag := by
    simp only [tag]
    cases p.mode <;> rfl
  calc s.readCpsr
    _ = (BitVec.ofBool p.n ++ BitVec.ofBool p.z ++ BitVec.ofBool p.c ++ BitVec.ofBool p.v ++ BitVec.ofBool p.q
          ++ p.res ++ BitVec.ofBool p.i ++ BitVec.ofBool p.f ++ BitVec.ofBool p.t ++ p.mode.tag).setWidth 32 :=
      (BitVec.setWidth_eq _).symm
    _ = _ := by
      simp only [BitVec.setWidth_append_eq_shiftLeft_setWidth_or, BitVec.shiftLeft_or_distrib,
        ← BitVec.shiftLeft_add, htag]

theorem SpsrFile.setSlot_of_none (f : SpsrFile) {m : Mode} (hm : m = .usr ∨ m = .sys) (w : Word) :
    f.setSlot m w = f := by
  obtain rfl | rfl := hm <;> rfl

/-- Settles O12: the modes without a slot and the modes with one. -/
theorem storeSpsrWritesTheActiveSlotOnly : Obligations.StoreSpsrWritesTheActiveSlotOnly := by
  refine fun s => ⟨fun hm => ?_, fun husr hsys => ⟨?_, fun m hm => ?_, rfl⟩⟩
  · rw [State.storeSpsr, SpsrFile.setSlot_of_none _ hm]
  · obtain ⟨w, hw⟩ : ∃ w, s.spsr.slot s.cpsr.mode = some w := by
      rw [← Option.ne_none_iff_exists', Ne, SpsrFile.slot_isNone]
      exact not_or.mpr ⟨husr, hsys⟩
    rw [State.storeSpsr_spsr, SpsrFile.slot_setSlot, if_pos rfl, hw]
    rfl
  · rw [State.storeSpsr_spsr, SpsrFile.slot_setSlot, if_neg hm]

/-! ### The start (10_state.md R34, R42, 70_reset_and_hazards.md R301) -/

theorem Cpsr.afterNew_word : Cpsr.afterNew.word = 0x00000013 := by decide

/-- Settles O13: the first step of a new core is idle, and its one fetch is at the program counter, which is 0. -/
theorem newIsZeroedAndFetchesAtZero : Obligations.NewIsZeroedAndFetchesAtZero := by
  intro bus policy s
  have hpc : s.pc = 0 := RegFile.zero_get _
  refine ⟨RegFile.zero_get, Cpsr.afterNew_word, fun _ _ => SpsrFile.zero_slot, rfl, rfl, rfl, rfl, rfl, rfl,
    s.advance, step_idle rfl rfl rfl, ?_, ?_, fun p hp => ?_, rfl, rfl, rfl, rfl, ?_, fun hd => ?_, ?_⟩
  · rw [State.advance_busLog, hpc]
    rfl
  · rw [State.advance_pc, hpc]
    rfl
  · exact RegFile.get_set_ne _ _ (by simpa using hp)
  · rw [State.advance_bus, hpc]
    rfl
  · rw [State.advance_bus, hpc]
    exact Bus.afterRead_plain hd
  · rw [State.advance_fetched, hpc]
    rfl

/-- Settles O14: one register written over zeroes, and zeroes everywhere else. -/
theorem resetOperationZeroesAllButOneLinkRegister : Obligations.ResetOperationZeroesAllButOneLinkRegister :=
  fun _ => ⟨RegFile.get_set_same _ _ _, fun p hp => (RegFile.get_set_ne _ _ hp).trans (RegFile.zero_get p),
    Cpsr.afterNew_word, fun _ _ => SpsrFile.zero_slot, rfl, rfl, rfl, rfl, rfl, rfl⟩

/-- Settles O56: of the two things a step can do, a halted core does the first. -/
theorem haltedCoreNeverMoves : Obligations.HaltedCoreNeverMoves := by
  intro s hs
  obtain ⟨_, he⟩ | ⟨hn, _⟩ := step_cases s
  · exact he
  · exact absurd hn hs

/-! ### The status word after a data-processing instruction (42_data_processing.md R176, R177) -/

theorem State.restoreFlags_of_slot {s : State} {w : Word} (h : s.spsr.slot s.cpsr.mode = some w) :
    s.restoreFlags = { s with cpsr := s.cpsr.restore w } := by
  rw [State.restoreFlags, h]

@[simp] theorem writeDestination_cpsr (op : Opcode) (rd : Reg) (out : AluOut) (s : State) :
    (writeDestination op rd out s).cpsr = s.cpsr := by
  unfold writeDestination
  split <;> simp

/-- What a data-processing instruction does whose condition passes (42_data_processing.md R170). -/
theorem exec_dataInstr_pass {c : Cond} {s : State} (hc : conditionPasses c s.cpsr = true) (op : Opcode) (sf : Bool)
    (rn rd : Reg) (o : Operand2) : exec (dataInstr op c sf rn rd o) s = .next (
      if dataProcessUnpredictable op (sBit op sf) rd s then
        s.halt (.unpredictableEncoding (encode (dataInstr op c sf rn rd o)))
      else
        writeFlags (sBit op sf) rd (dataProcessOut op rn o s)
          (writeDestination op rd (dataProcessOut op rn o s) s)) := by
  rw [exec_dataInstr, dataProcess, conditionally_pass hc]

theorem dataProcessUnpredictable_of_ne {rd : Reg} (h : rd ≠ 15) (op : Opcode) (sf : Bool) (s : State) :
    dataProcessUnpredictable op sf rd s = false := by
  rw [dataProcessUnpredictable, beq_false_of_ne h, Bool.false_and]

theorem dataProcessUnpredictable_pc (op : Opcode) (sf : Bool) (s : State) :
    dataProcessUnpredictable op sf 15 s = false ↔
      compares op = false ∧ (sf = true → ∃ w, s.spsr.slot s.cpsr.mode = some w) := by
  simp [dataProcessUnpredictable, Option.isSome_iff_exists]

theorem writeFlags_of_ne {rd : Reg} (h : rd ≠ 15) (out : AluOut) (s : State) :
    writeFlags true rd out s = s.setFlags out :=
  if_neg h

/-- The logical opcodes keep V (42_data_processing.md R173). -/
theorem aluResult_overflow_of_logical {op : Opcode} (h : op ∈ [Opcode.and, .eor, .tst, .teq, .orr, .mov, .bic, .mvn])
    (a : Word) (b : ShifterOut) (carryIn vOld : Bool) : (aluResult op a b carryIn vOld).overflow = vOld := by
  simp only [List.mem_cons, List.not_mem_nil, or_false] at h
  obtain rfl | rfl | rfl | rfl | rfl | rfl | rfl | rfl := h <;> rfl

/-- A writing opcode with S = 1 and the program counter as destination, in a mode with an SPSR: the result goes to r15
and the flags come from the SPSR (42_data_processing.md R177 case b). -/
theorem exec_dataInstr_return {op : Opcode} {c : Cond} {s : State} {w : Word} (hc : conditionPasses c s.cpsr = true)
    (hop : compares op = false) (hw : s.spsr.slot s.cpsr.mode = some w) (rn : Reg) (o : Operand2) :
    exec (dataInstr op c true rn 15 o) s = .next { s with
      regs := s.regs.set (.r 15) (dataProcessOut op rn o s).value
      branched := true
      cpsr := s.cpsr.restore w } := by
  have hu : dataProcessUnpredictable op (sBit op true) 15 s = false :=
    (dataProcessUnpredictable_pc ..).mpr ⟨hop, fun _ => ⟨w, hw⟩⟩
  have hwrite : writeDestination op 15 (dataProcessOut op rn o s) s = { s with
      regs := s.regs.set (.r 15) (dataProcessOut op rn o s).value
      branched := true } := by
    rw [writeDestination, hop, if_neg Bool.false_ne_true, State.writeReg_pc]
  rw [exec_dataInstr_pass hc, hu, if_neg Bool.false_ne_true, hwrite]
  exact congrArg _ (State.restoreFlags_of_slot hw)

/-- Settles O30, from what the return does. -/
theorem dataProcessReturnRestoresFlags : Obligations.DataProcessReturnRestoresFlags := by
  intro op c rn o s w hc hop hw
  exact ⟨_, exec_dataInstr_return hc hop hw rn o, s.regs.get_set_same (.r 15) _,
    fun p hp => s.regs.get_set_ne _ (by simpa using hp), rfl, rfl, ⟨rfl, rfl, rfl, rfl, rfl, rfl⟩, rfl, rfl⟩

/-- Settles O26: S = 0, S = 1 with another destination, the program counter, and the decoder. -/
theorem flagsWrittenOnlyWithSAndNotForThePc : Obligations.FlagsWrittenOnlyWithSAndNotForThePc := by
  refine ⟨?_, fun _ => decode_cls_ne_dataProcess⟩
  intro op c sf rn rd o s hc out
  obtain ⟨t, ht⟩ := exec_next (dataInstr op c sf rn rd o) s
  have hpass := Host.Outcome.next.inj (ht.symm.trans (exec_dataInstr_pass hc op sf rn rd o))
  refine ⟨t, ht, fun hS => ?_, fun hS hrd => ?_, fun hrd hne => ?_⟩
  · rw [hpass, hS]
    split
    · rfl
    · exact writeDestination_cpsr ..
  · rw [hpass, dataProcessUnpredictable_of_ne hrd, if_neg Bool.false_ne_true, hS, writeFlags_of_ne hrd,
      State.setFlags_cpsr, writeDestination_cpsr]
    exact ⟨rfl, fun hop => aluResult_overflow_of_logical hop ..⟩
  · subst hrd
    have hu : dataProcessUnpredictable op (sBit op sf) 15 s = false := by
      rw [Bool.eq_false_iff]
      exact fun hu => hne (by rw [hpass, if_pos hu, State.halt_cpsr])
    obtain ⟨hop, hslot⟩ := (dataProcessUnpredictable_pc ..).mp hu
    have hsBit : sBit op sf = sf := by rw [sBit, hop, Bool.or_false]
    cases sf with
    | false => exact absurd (by rw [hpass, hu, hsBit]; exact writeDestination_cpsr ..) hne
    | true =>
      obtain ⟨w, hw⟩ := hslot hsBit
      have hreturn := Host.Outcome.next.inj (ht.symm.trans (exec_dataInstr_return hc hop hw rn o))
      exact ⟨hop, rfl, by rw [hreturn, Cpsr.restore_mode], w, hw, by rw [hreturn]⟩

end Sys2Proof.Machine
end

section
/-! PROOFS. What stands behind the port and in the two slots: the canonical form of memory (20_memory.md R60), the flush
and the stale fetch (R73, R77), and the transfers that go on after a fault (R67). -/

namespace Sys2Proof.Machine

namespace Memory

/-! ### The canonical form (20_memory.md R60) -/

theorem wfFrom_cons {lo a : Nat} {v : Byte} {m : Memory} : wfFrom lo ((a, v) :: m) = true ↔
    lo ≤ a ∧ a < 2 ^ 32 ∧ v ≠ unlistedByte ∧ wfFrom (a + 1) m = true := by
  simp only [wfFrom, Bool.and_eq_true, decide_eq_true_eq, bne_iff_ne, and_assoc]

@[simp] theorem readByte_cons_self (a : Nat) (v : Byte) (m : Memory) : readByte ((a, v) :: m) a = v := if_pos rfl

theorem readByte_cons_ne {a n : Nat} (h : n ≠ a) (v : Byte) (m : Memory) : readByte ((a, v) :: m) n = readByte m n :=
  if_neg h

/-- Below its first address a canonical memory lists nothing. -/
theorem readByte_below : ∀ {m : Memory} {lo n : Nat}, wfFrom lo m = true → n < lo → readByte m n = unlistedByte
  | [], _, _, _, _ => rfl
  | (a, v) :: m, lo, n, h, hn => by
    obtain ⟨hlo, _, _, hm⟩ := wfFrom_cons.mp h
    rw [readByte_cons_ne (by omega)]
    exact readByte_below hm (by omega)

/-- What a memory lists at its head is not below the addresses of a canonical memory that reads the same. -/
theorem le_head_of_readByte_eq {m m' : Memory} {lo a : Nat} {v : Byte} (hv : v ≠ unlistedByte)
    (hm' : wfFrom lo m' = true) (h : ∀ n, readByte ((a, v) :: m) n = readByte m' n) : lo ≤ a := by
  by_contra hlt
  have ha := h a
  rw [readByte_cons_self, readByte_below hm' (by omega)] at ha
  exact hv ha

/-- Two canonical memories that read the same list the same first address, the same byte there, and the same rest. -/
theorem eq_of_readByte_eq : ∀ {m m' : Memory} {lo : Nat}, wfFrom lo m = true → wfFrom lo m' = true →
    (∀ n, readByte m n = readByte m' n) → m = m'
  | [], [], _, _, _, _ => rfl
  | [], (a, v) :: _, _, _, hm', h => by
    have := le_head_of_readByte_eq (lo := a + 1) (wfFrom_cons.mp hm').2.2.1 rfl fun n => (h n).symm
    omega
  | (a, v) :: _, [], _, hm, _, h => by
    have := le_head_of_readByte_eq (lo := a + 1) (wfFrom_cons.mp hm).2.2.1 rfl h
    omega
  | (a, v) :: m, (b, w) :: m', _, hm, hm', h => by
    obtain ⟨_, ha, hv, hm⟩ := wfFrom_cons.mp hm
    obtain ⟨_, hb, hw, hm'⟩ := wfFrom_cons.mp hm'
    have hba : b ≤ a := le_head_of_readByte_eq hv (wfFrom_cons.mpr ⟨le_rfl, hb, hw, hm'⟩) h
    have hab : a ≤ b := le_head_of_readByte_eq hw (wfFrom_cons.mpr ⟨le_rfl, ha, hv, hm⟩) fun n => (h n).symm
    obtain rfl := Nat.le_antisymm hab hba
    have hvw : v = w := by simpa using h a
    have hrest : ∀ n, readByte m n = readByte m' n := fun n => by
      by_cases hn : n = a
      · rw [readByte_below hm (by omega), readByte_below hm' (by omega)]
      · simpa only [readByte_cons_ne hn] using h n
    rw [hvw, eq_of_readByte_eq hm hm' hrest]

end Memory

/-- Settles O51: a write keeps the canonical form, and a canonical memory is what it reads. -/
theorem canonicalMemoriesThatReadAlikeAreEqual : Obligations.CanonicalMemoriesThatReadAlikeAreEqual :=
  ⟨fun m a v hm ha => ⟨Memory.wf_writeByte hm ha v, fun n => Memory.readByte_writeByte m a n v⟩,
    fun _ _ => Memory.eq_of_readByte_eq⟩

/-! ### The two slots (20_memory.md R73, R77) -/

theorem State.completeStep_flush {s : State} (hh : s.halted = none) (hb : s.branched = true) :
    s.completeStep = s.flush := by
  simp [State.completeStep, hh, hb]

/-- Settles O54: the step of an instruction that wrote r15 ends in the flush. -/
theorem flushKeepsTheWrittenTarget : Obligations.FlushKeepsTheWrittenTarget := by
  intro s t i hh hd he hb ht
  refine ⟨t.flush, ?_, rfl, rfl, rfl, rfl, rfl, rfl, rfl, ht⟩
  rw [step_instr hh hd he, State.completeStep_flush ht hb]

theorem Executed.eq_of_idle {s u : State} (h : Executed s u) (hd : s.decoded = .none) : u = s.beginStep := by
  obtain ⟨_, rfl⟩ | ⟨_, hf, _⟩ | ⟨_, hi, _⟩ := h
  · rfl
  · cases hd.symm.trans hf
  · cases hd.symm.trans hi

theorem Executed.eq_of_instr {s u v : State} {i : Instr} (h : Executed s u) (hd : s.decoded = .instr i)
    (hv : exec i s.beginStep = .next v) : u = v := by
  obtain ⟨hn, _⟩ | ⟨_, hf, _⟩ | ⟨_, hi, hu⟩ := h
  · cases hd.symm.trans hn
  · cases hd.symm.trans hf
  · cases hd.symm.trans hi
    cases hu.symm.trans hv
    rfl

/-- Settles O55: a step that neither halts nor flushes ends in the advance, whose decoding is of the slot that execution
has left alone and whose fetch finds the bus that execution has left. -/
theorem fetchedWordIsNotRefetched : Obligations.FetchedWordIsNotRefetched := by
  intro s t w hh hf hstep ht
  obtain ⟨hhalt, _⟩ | ⟨_, u, hu, he⟩ := step_cases s
  · simp [hh] at hhalt
  cases he.symm.trans hstep
  obtain ⟨hhalt, hc⟩ | ⟨_, _, hc⟩ | ⟨_, _, hc⟩ := u.completeStep_cases
  · rw [hc] at ht
    exact absurd hhalt (by simpa using ht)
  · rw [hc]
    exact .inl ⟨rfl, rfl⟩
  · have hfetched : u.fetched = .word w := hu.coreKept.fetched.trans hf
    have hpc : u.advance.pc - 4 = u.pc := by rw [State.advance_pc, BitVec.add_sub_cancel]
    rw [hc, hpc]
    refine .inr ⟨?_, u.bus, rfl, fun hd => by rw [hu.eq_of_idle hd]; rfl,
      fun i v hd hv => by rw [hu.eq_of_instr hd hv], Bus.afterRead_plain, rfl, rfl⟩
    rw [State.advance_decoded, hfetched]
    rfl

/-! ### Which registers change, and the base update (44_single_data_transfer.md R214, 45_block_data_transfer.md R234) -/

theorem RegsKeptBut.of_regs_eq {s t : State} (h : t.regs = s.regs) (ps : List PhysReg) : RegsKeptBut ps s t :=
  fun _ _ => by rw [h]

theorem RegsKeptBut.append {s t u : State} {ps qs : List PhysReg} (h : RegsKeptBut ps s t) (h' : RegsKeptBut qs t u) :
    RegsKeptBut (ps ++ qs) s u := fun p hp => by
  rw [List.mem_append, not_or] at hp
  rw [h' p hp.2, h p hp.1]

theorem regsKeptBut_writeReg (s : State) (i : Reg) (v : Word) :
    RegsKeptBut [phys s.cpsr.mode i] s (s.writeReg i v) := fun p hp => by
  rw [State.regs_writeReg, if_neg (by simpa using hp)]

/-- The base update of either kind of transfer: the base register is written, where there is write-back. -/
def State.writeBack (s : State) (b : Bool) (i : Reg) (v : Word) : State := if b then s.writeReg i v else s

theorem SingleTransfer.updateBase_eq (t : SingleTransfer) (v : Word) (s : State) :
    t.updateBase v s = s.writeBack t.writesBack t.rn v := rfl

theorem BlockTransfer.updateBase_eq (t : BlockTransfer) (v : Word) (s : State) :
    t.updateBase v s = s.writeBack t.w t.rn v := rfl

section
variable (s : State) (b : Bool) (i : Reg) (v : Word)

@[simp] theorem State.writeBack_cpsr : (s.writeBack b i v).cpsr = s.cpsr := by cases b <;> simp [State.writeBack]
@[simp] theorem State.writeBack_spsr : (s.writeBack b i v).spsr = s.spsr := by cases b <;> simp [State.writeBack]
@[simp] theorem State.writeBack_fetched : (s.writeBack b i v).fetched = s.fetched := by cases b <;> simp [State.writeBack]
@[simp] theorem State.writeBack_decoded : (s.writeBack b i v).decoded = s.decoded := by cases b <;> simp [State.writeBack]
@[simp] theorem State.writeBack_halted : (s.writeBack b i v).halted = s.halted := by cases b <;> simp [State.writeBack]
@[simp] theorem State.writeBack_bus : (s.writeBack b i v).bus = s.bus := by cases b <;> simp [State.writeBack]
@[simp] theorem State.writeBack_policy : (s.writeBack b i v).policy = s.policy := by cases b <;> simp [State.writeBack]
@[simp] theorem State.writeBack_busLog : (s.writeBack b i v).busLog = s.busLog := by cases b <;> simp [State.writeBack]
@[simp] theorem State.writeBack_draws : (s.writeBack b i v).draws = s.draws := by cases b <;> simp [State.writeBack]

end

theorem State.writeBack_branched {b : Bool} {i : Reg} (h : b = true → i ≠ 15) (s : State) (v : Word) :
    (s.writeBack b i v).branched = s.branched := by
  cases b with
  | false => rfl
  | true => rw [State.writeBack, if_pos rfl, State.writeReg_of_ne (h rfl), State.setReg_branched]

theorem State.getReg_writeBack_same {b : Bool} (h : b = true) (s : State) (i : Reg) (v : Word) :
    (s.writeBack b i v).getReg i = v := by
  rw [State.writeBack, if_pos h, State.getReg_writeReg, if_pos rfl]

theorem State.getReg_writeBack_ne {b : Bool} {i j : Reg} (h : b = true → j ≠ i) (s : State) (v : Word) :
    (s.writeBack b i v).getReg j = s.getReg j := by
  cases b with
  | false => rfl
  | true => rw [State.writeBack, if_pos rfl, State.getReg_writeReg, if_neg (h rfl)]

/-- The base update adds one register to those the accesses have changed. -/
theorem RegsKeptBut.writeBack {s u : State} {ps : List PhysReg} (h : RegsKeptBut ps s u) (hcpsr : u.cpsr = s.cpsr)
    (b : Bool) (i : Reg) (v : Word) :
    RegsKeptBut (ps ++ if b then [phys s.cpsr.mode i] else []) s (u.writeBack b i v) := by
  cases b with
  | false =>
    rw [if_neg Bool.false_ne_true, List.append_nil]
    exact h
  | true => exact h.append (hcpsr ▸ regsKeptBut_writeReg u i v)

/-! ### Word transfers that complete (44_single_data_transfer.md R210, 20_memory.md R67) -/

/-- A read that is answered, or whose fault is ignored, delivers the bus's word or the next free word. -/
theorem State.memRead_done {s : State} {a : Word} (h : s.policy = .ignore ∨ (s.bus.read a).isNone = false) :
    s.memRead a = .done ((s.bus.read a).getD (Config.freeWord s.draws))
      (if (s.bus.read a).isNone then (s.portRead a).drawn else s.portRead a) := by
  obtain ⟨w, hr, he⟩ | ⟨hr, hp, _⟩ | ⟨hr, _, he⟩ := s.memRead_cases a
  · rw [he, hr]
    rfl
  · simp [hr, hp] at h
  · rw [he, hr]
    rfl

/-- A write that is answered, or whose fault is ignored, goes on. -/
theorem State.memWrite_done {s : State} {a v : Word} (h : s.policy = .ignore ∨ s.bus.accepts a v = true) :
    s.memWrite a v = .done () (s.portWrite a v) := by
  obtain ⟨_, he⟩ | ⟨ha, hp, _⟩ := s.memWrite_cases a v
  · exact he
  · simp [ha, hp] at h

/-- The bus answers the access of a word transfer with Fault. -/
def SingleTransfer.faults (t : SingleTransfer) (s : State) : Bool :=
  if t.l then (s.bus.read (t.address s)).isNone else !s.bus.accepts (t.address s) (s.getReg t.rd)

/-- Everything about the state `u` that the access of a word transfer started in `s` and, of a load, the write of its
destination end in, the base still as it was. -/
structure SingleTransfer.Done (t : SingleTransfer) (s u : State) : Prop where
  cpsr : u.cpsr = s.cpsr
  spsr : u.spsr = s.spsr
  fetched : u.fetched = s.fetched
  decoded : u.decoded = s.decoded
  halted : u.halted = s.halted
  policy : u.policy = s.policy
  bus : u.bus = if t.l then s.bus.afterRead (t.address s) else s.bus.afterWrite (t.address s) (s.getReg t.rd)
  draws : u.draws = s.draws + if t.l && t.faults s then 1 else 0
  branched : u.branched = (t.l && decide (t.rd = 15) || s.branched)
  value : t.l = true → u.getReg t.rd = (s.bus.read (t.address s)).getD (Config.freeWord s.draws)
  regs : RegsKeptBut (if t.l then [phys s.cpsr.mode t.rd] else []) s u
  log : u.busLog = (if t.l then .read (t.address s) (s.bus.read (t.address s))
    else .write (t.address s) (s.getReg t.rd) (s.bus.accepts (t.address s) (s.getReg t.rd))) :: s.busLog

theorem SingleTransfer.done_load {t : SingleTransfer} (hl : t.l = true) (s : State) :
    t.Done s ((if t.faults s then (s.portRead (t.address s)).drawn else s.portRead (t.address s)).writeReg t.rd
      ((s.bus.read (t.address s)).getD (Config.freeWord s.draws))) where
  cpsr := by split <;> simp
  spsr := by split <;> simp
  fetched := by split <;> simp
  decoded := by split <;> simp
  halted := by split <;> simp
  policy := by split <;> simp
  bus := by
    rw [if_pos hl]
    split <;> simp
  draws := by
    rw [hl, Bool.true_and]
    split <;> simp
  branched := by
    rw [hl, Bool.true_and, Bool.or_comm]
    split <;> exact State.writeReg_branched ..
  value := fun _ => by rw [State.getReg_writeReg, if_pos rfl]
  regs := by
    rw [if_pos hl]
    split
    · exact regsKeptBut_writeReg (s.portRead _).drawn _ _
    · exact regsKeptBut_writeReg (s.portRead _) _ _
  log := by
    rw [if_pos hl]
    split <;> simp

theorem SingleTransfer.done_store {t : SingleTransfer} (hl : t.l = false) (s : State) :
    t.Done s (s.portWrite (t.address s) (s.getReg t.rd)) where
  cpsr := rfl
  spsr := rfl
  fetched := rfl
  decoded := rfl
  halted := rfl
  policy := rfl
  bus := by simp [hl]
  draws := by simp [hl]
  branched := by simp [hl]
  value := by simp [hl]
  regs := .of_regs_eq rfl _
  log := by simp [hl]

/-- A word transfer whose access is answered, or whose fault is ignored, goes on to its base update. -/
theorem exec_wordTransfer_done {c : Cond} {t : SingleTransfer} {s : State} (hc : conditionPasses c s.cpsr = true)
    (hb : t.b = false) (hu : t.unpredictable = false) (hp : s.policy = .ignore ∨ t.faults s = false) :
    ∃ u, t.Done s u ∧ exec (singleInstr c t) s = .next (u.writeBack t.writesBack t.rn (t.computed s)) := by
  rw [exec_wordTransfer hc hb hu]
  simp only [SingleTransfer.updateBase_eq]
  cases hl : t.l with
  | true =>
    have hf : t.faults s = (s.bus.read (t.address s)).isNone := if_pos hl
    refine ⟨_, t.done_load hl s, ?_⟩
    rw [if_pos rfl, State.memRead_done (by rwa [hf] at hp), hf]
    rfl
  | false =>
    have hf : t.faults s = !s.bus.accepts (t.address s) (s.getReg t.rd) := if_neg (by simp [hl])
    refine ⟨_, t.done_store hl s, ?_⟩
    rw [if_neg Bool.false_ne_true, State.memWrite_done (by rwa [hf, Bool.not_eq_false'] at hp)]
    rfl

/-! ### Block transfers that complete (45_block_data_transfer.md R230) -/

theorem BlockTransfer.unpredictable_eq_false_iff (t : BlockTransfer) :
    t.unpredictable = false ↔ (t.w = true → t.rn ≠ 15 ∧ t.list.getLsbD t.rn.toNat = false) := by
  simp only [BlockTransfer.unpredictable, Bool.and_eq_false_imp, Bool.or_eq_false_iff, beq_eq_false_iff_ne]

theorem registers_contains (t : BlockTransfer) (i : Reg) : t.registers.contains i = t.list.getLsbD i.toNat := by
  rw [Bool.eq_iff_iff, List.contains_iff_mem, mem_registers]

theorem registers_length_le (t : BlockTransfer) : t.registers.length ≤ 16 := List.length_filter_le _ allRegs

/-- What an LDM or STM of an executed form does: its accesses, then its base. -/
theorem exec_block {c : Cond} {t : BlockTransfer} {s : State} (hc : conditionPasses c s.cpsr = true)
    (hsb : t.sb = false) (hu : t.unpredictable = false) :
    exec (blockInstr c t) s = .next (((if t.l then loadRegisters else storeRegisters) t.registers (t.start s) s).andThen
      fun _ s' => s'.writeBack t.w t.rn (t.newBase s)) := by
  rw [exec_blockInstr, blockTransfer, conditionally_pass hc]
  simp [hsb, hu, BlockTransfer.updateBase_eq]

/-- Everything about the state `u` that the accesses of a block started in `s` end in, the base still as it was. -/
structure BlockTransfer.Done (t : BlockTransfer) (s u : State) : Prop where
  cpsr : u.cpsr = s.cpsr
  spsr : u.spsr = s.spsr
  fetched : u.fetched = s.fetched
  decoded : u.decoded = s.decoded
  halted : u.halted = s.halted
  policy : u.policy = s.policy
  bus : u.bus = t.busAfter s
  draws : u.draws = s.draws + if t.l then (t.registers.filter (t.faultsAt s)).length else 0
  branched : u.branched = (t.l && t.list.getLsbD 15 || s.branched)
  values : t.l = true → ∀ i : Reg, t.list.getLsbD i.toNat = true → u.getReg i = t.loaded s i
  regs : RegsKeptBut (if t.l then t.registers.map (phys s.cpsr.mode) else []) s u
  log : u.busLog = (t.registers.map (t.event s)).reverse ++ s.busLog

theorem Loaded.done {t : BlockTransfer} {s u : State} (h : Loaded t s t.registers u) (hl : t.l = true) : t.Done s u where
  cpsr := h.cpsr
  spsr := h.spsr
  fetched := h.fetched
  decoded := h.decoded
  halted := h.halted
  policy := h.policy
  bus := h.bus
  draws := by rw [h.draws, if_pos hl]
  branched := by rw [h.branched, registers_contains, hl, Bool.true_and]; rfl
  values := fun _ i hi => h.values i ((mem_registers t i).mpr hi)
  regs := by rw [if_pos hl]; exact h.regs
  log := h.log

theorem Stored.done {t : BlockTransfer} {s u : State} (h : Stored t s t.registers u) (hl : t.l = false) : t.Done s u := by
  rw [h.rest]
  exact { cpsr := rfl, spsr := rfl, fetched := rfl, decoded := rfl, halted := rfl, policy := rfl, bus := rfl, log := rfl
          draws := by simp [hl]
          branched := by simp [hl]
          values := by simp [hl]
          regs := .of_regs_eq rfl _ }

/-- A block whose accesses are all answered, or that goes on whatever they are answered, makes them all, then its base
update. -/
theorem exec_block_done {c : Cond} {t : BlockTransfer} {s : State} (hc : conditionPasses c s.cpsr = true)
    (hsb : t.sb = false) (hu : t.unpredictable = false)
    (hp : s.policy = .ignore ∨ ∀ i ∈ t.registers, t.faultsAt s i = false) :
    ∃ u, t.Done s u ∧ exec (blockInstr c t) s = .next (u.writeBack t.w t.rn (t.newBase s)) := by
  have haddr := addressesFrom_registers t s
  rw [exec_block hc hsb hu]
  cases hl : t.l with
  | true =>
    obtain ⟨u, hu, hloaded⟩ := loadRegisters_done hl t.registers [] [] _ s (.nil t s) (by simp) haddr hp
    exact ⟨u, hloaded.done hl, by rw [if_pos rfl, hu, Access.andThen]⟩
  | false =>
    obtain ⟨u, hu, hstored⟩ := storeRegisters_done hl t.registers [] [] _ s (.nil t s) (by simp) haddr hp
    exact ⟨u, hstored.done hl, by rw [if_neg Bool.false_ne_true, hu, Access.andThen]⟩

/-! ### The bus after a block -/

theorem BlockTransfer.access_store {t : BlockTransfer} (hl : t.l = false) (s : State) (b : Bus) (i : Reg) :
    t.access s b i = b.afterWrite (t.addressOf s i) (s.getReg i) := by
  rw [BlockTransfer.access, hl]
  rfl

theorem BlockTransfer.faultsAt_store {t : BlockTransfer} (hl : t.l = false) (s : State) (i : Reg) :
    t.faultsAt s i = !(t.busAt s i).accepts (t.addressOf s i) (s.getReg i) := by
  rw [BlockTransfer.faultsAt, hl]
  rfl

/-- A faulted write changes no byte (20_memory.md R67). -/
theorem BlockTransfer.access_mem_of_faultsAt {t : BlockTransfer} (hl : t.l = false) {s : State} {i : Reg}
    (h : t.faultsAt s i = true) : (t.access s (t.busAt s i) i).mem = (t.busAt s i).mem := by
  rw [t.faultsAt_store hl, Bool.not_eq_true'] at h
  rw [t.access_store hl, Bus.afterWrite_faulted h]

section
variable {t : BlockTransfer} {s : State}
  (hd : ∀ i : Reg, t.list.getLsbD i.toNat = true → s.bus.device (t.addressOf s i) = false)
include hd

/-- Away from devices, whether a write faults does not depend on the writes before it. -/
theorem BlockTransfer.faultsAt_of_plain (hl : t.l = false) {i : Reg} (hi : t.list.getLsbD i.toNat = true) :
    t.faultsAt s i = !s.bus.accepts (t.addressOf s i) (s.getReg i) := by
  have hm : MappingKept s.bus (t.busAt s i) := (moved_accesses t s (t.before i) s.bus).mapping
  rw [t.faultsAt_store hl, hm.accepts (hd i hi)]

theorem BlockTransfer.busAfter_load (hl : t.l = true) : t.busAfter s = s.bus :=
  reads_plain hl fun i hi => hd i ((mem_registers t i).mp hi)

theorem BlockTransfer.busAfter_rest : t.busAfter s = { s.bus with mem := (t.busAfter s).mem } := by
  cases hl : t.l with
  | true => rw [BlockTransfer.busAfter_load hd hl]
  | false => exact (writes_plain hl fun i hi => hd i ((mem_registers t i).mp hi)).1

theorem BlockTransfer.busAfter_read_back (hl : t.l = false) {i : Reg} (hi : t.list.getLsbD i.toNat = true)
    (hs : s.bus.storesAt (t.addressOf s i) ≠ none) : (t.busAfter s).read (t.addressOf s i) = some (s.getReg i) :=
  writes_read_back hl (registers_length_le t) (addressesFrom_registers t s)
    (fun j hj => hd j ((mem_registers t j).mp hj)) i ((mem_registers t i).mpr hi) hs

/-- A byte that is of no word whose write is accepted is as it was. -/
theorem BlockTransfer.busAfter_outside (hl : t.l = false) {n : Nat} (hn : ∀ i : Reg, t.list.getLsbD i.toNat = true →
    t.faultsAt s i = false → ¬ ByteOfWord s.bus (t.addressOf s i) n) :
    (t.busAfter s).mem.readByte n = s.bus.mem.readByte n := by
  refine (writes_plain hl fun i hi => hd i ((mem_registers t i).mp hi)).2 n fun i hi hacc => ?_
  have hi := (mem_registers t i).mp hi
  exact hn i hi (by rw [BlockTransfer.faultsAt_of_plain hd hl hi, hacc, Bool.not_true])

end

/-! ### The policy ignore (20_memory.md R67) -/

/-- Settles O41: the accesses go on with the free word or the dropped write, and the register writes follow. -/
theorem ignoredFaultGoesOn : Obligations.IgnoredFaultGoesOn := by
  refine ⟨?_, ?_⟩
  · intro c t s offset computed address back hc hb (hback : t.writesBack = true → t.rn ≠ t.rd ∧ t.rn ≠ 15) hp hfault
    have hu := t.unpredictable_eq_false_iff.mpr fun h => hback (by simpa [SingleTransfer.writesBack] using h)
    have hread : t.l = true → s.bus.read (t.address s) = none := fun hl => by rwa [if_pos hl] at hfault
    have haccepts : t.l = false → s.bus.accepts (t.address s) (s.getReg t.rd) = false := fun hl => by
      rwa [if_neg (by simp [hl])] at hfault
    obtain ⟨u, hdone, hexec⟩ := exec_wordTransfer_done hc hb hu (.inl hp)
    refine ⟨_, hexec, fun hl => ⟨?_, ?_⟩, fun hl => ?_, fun hw => State.getReg_writeBack_same hw .., ?_,
      by simp [hdone.cpsr], by simp [hdone.spsr], by simp [hdone.halted], by rw [State.writeBack_bus]; exact hdone.bus,
      fun hl => ?_, fun hd => ?_, by simp [hdone.fetched], by simp [hdone.decoded], by simp [hdone.policy], ?_, ?_⟩
    · rw [State.getReg_writeBack_ne fun h => (hback h).1.symm, hdone.value hl, hread hl]
      rfl
    · simp [hdone.draws, hl, SingleTransfer.faults, hread hl]
    · simp [hdone.draws, hl]
    · exact hdone.regs.writeBack hdone.cpsr _ _ _
    · rw [State.writeBack_bus, hdone.bus, if_neg (by simp [hl]), Bus.afterWrite_faulted (haccepts hl)]
    · rw [State.writeBack_bus, hdone.bus]
      split
      · exact Bus.afterRead_plain hd
      · next hl => exact Bus.afterWrite_refused hd (haccepts (by simpa using hl))
    · rw [State.writeBack_branched fun h => (hback h).2, hdone.branched]
    · rw [State.writeBack_busLog, hdone.log]
      split
      · next hl =>
        rw [hread hl]
        rfl
      · next hl =>
        rw [haccepts (by simpa using hl)]
        rfl
  · intro c t s hc hsb hback hp
    have hu := t.unpredictable_eq_false_iff.mpr hback
    obtain ⟨u, hdone, hexec⟩ := exec_block_done hc hsb hu (.inl hp)
    refine ⟨_, hexec, fun hl => ⟨fun i hi => ?_, ?_⟩, fun hl => ?_, fun hw => State.getReg_writeBack_same hw .., ?_,
      by simp [hdone.cpsr], by simp [hdone.spsr], by simp [hdone.halted], by simp [hdone.bus],
      fun hl i hf => t.access_mem_of_faultsAt hl hf, fun hd => ?_, by simp [hdone.fetched], by simp [hdone.decoded],
      by simp [hdone.policy], ?_, by simp [hdone.log]⟩
    · rw [State.getReg_writeBack_ne fun hw => ?_]
      · exact hdone.values hl i hi
      · rintro rfl
        rw [(hback hw).2] at hi
        cases hi
    · simp [hdone.draws, hl]
    · simp [hdone.draws, hl]
    · exact hdone.regs.writeBack hdone.cpsr _ _ _
    · rw [State.writeBack_bus, hdone.bus]
      exact ⟨t.busAfter_load hd, t.busAfter_rest hd, fun hl => ⟨fun i => t.busAfter_read_back hd hl,
        fun n => t.busAfter_outside hd hl⟩⟩
    · rw [State.writeBack_branched fun hw => (hback hw).1, hdone.branched]

end Sys2Proof.Machine
end

section
/-! PROOFS. The formats of 30_encoding.md R86 to R106 read as equations: an encoded word is `w` exactly when the fields
of `w` are those of the instruction. -/

namespace Sys2Proof

/-! ### Fields of a word -/

/-- The bits of `x` from bit `lo` up are `v` (00_scope.md R10). -/
def HasBits {k n : Nat} (x : BitVec k) (lo : Nat) (v : BitVec n) : Prop := x.extractLsb' lo n = v

theorem hasBits_all {k : Nat} {x v : BitVec k} : HasBits x 0 v ↔ v = x := by
  rw [HasBits, BitVec.extractLsb'_eq_self, eq_comm]

/-- What is appended stands below. -/
theorem hasBits_append {k n m lo : Nat} {x : BitVec k} {v : BitVec n} {v' : BitVec m} :
    HasBits x lo (v ++ v') ↔ HasBits x (lo + m) v ∧ HasBits x lo v' := by
  rw [HasBits, ← BitVec.extractLsb'_append_extractLsb'_eq_extractLsb' rfl]
  constructor
  · intro h
    have hv := congrArg (BitVec.extractLsb' m n) h
    have hv' := congrArg (BitVec.extractLsb' 0 m) h
    rw [BitVec.extractLsb'_append_eq_left, BitVec.extractLsb'_append_eq_left] at hv
    rw [BitVec.extractLsb'_append_eq_right, BitVec.extractLsb'_append_eq_right] at hv'
    exact ⟨hv, hv'⟩
  · rintro ⟨rfl, rfl⟩
    rfl

theorem hasBits_ofBool {k lo : Nat} {x : BitVec k} {b : Bool} :
    HasBits x lo (BitVec.ofBool b) ↔ x.getLsbD lo = b := by
  rw [HasBits, ← BitVec.ofBool_eq_iff_eq]
  refine iff_of_eq (congrArg (· = _) (BitVec.eq_of_getLsbD_eq fun i hi => ?_))
  obtain rfl : i = 0 := by omega
  simp

theorem Word.hasBits_cond {c : Cond} {w : Word} : HasBits w 28 c.code ↔ w.condField = c :=
  ⟨fun h => by rw [Word.condField, Word.field, h, Cond.ofCode_code],
    fun h => by rw [← h, Word.condField, HasBits, Cond.code_ofCode, Word.field]⟩

theorem hasBits_shiftType {k lo : Nat} {x : BitVec k} {t : ShiftType} :
    HasBits x lo t.code ↔ ShiftType.ofCode (x.extractLsb' lo 2) = t :=
  ⟨fun h => by rw [h, ShiftType.ofCode_code], fun h => by rw [← h, HasBits, ShiftType.code_ofCode]⟩

/-! ### What is known of a word -/

/-- Of the bits of `w`, those in `m` are known to be those of `p` (30_encoding.md R84). -/
def Known (w m p : Word) : Prop := w.hits m p = true

theorem HasBits.known {w : Word} {lo n : Nat} {v : BitVec n} (h : HasBits w lo v) :
    Known w ((BitVec.allOnes n).setWidth 32 <<< lo) (v.setWidth 32 <<< lo) := by
  obtain rfl := h
  simp only [Known, Word.hits, beq_iff_eq]
  apply BitVec.eq_of_getLsbD_eq
  intro i hi
  by_cases hlo : i < lo
  · simp [hlo]
  · simp [hlo, hi, show lo + (i - lo) = i by omega, Bool.and_comm]

theorem known_bit {w : Word} {k : Nat} {b : Bool} (h : w.bit k = b) :
    Known w ((BitVec.allOnes 1).setWidth 32 <<< k) ((BitVec.ofBool b).setWidth 32 <<< k) :=
  (hasBits_ofBool.mpr h).known

theorem Known.and {w m p m' p' : Word} (h : Known w m p) (h' : Known w m' p') : Known w (m ||| m') (p ||| p') := by
  simp only [Known, Word.hits, beq_iff_eq] at h h' ⊢
  rw [BitVec.and_or_distrib_left, h, h']

/-! ### The formats (30_encoding.md R86 to R106) -/

theorem bxWord_eq_iff {c : Cond} {rm : Reg} {w : Word} :
    bxWord c rm = w ↔ w.condField = c ∧ HasBits w 4 0x12FFF1#24 ∧ w.reg0 = rm := by
  rw [← hasBits_all, bxWord]
  simp only [hasBits_append]
  simp only [Nat.reduceAdd, Word.hasBits_cond, and_assoc]
  rfl

theorem multiplyWord_eq_iff {c : Cond} {a s : Bool} {rd rn rs rm : Reg} {w : Word} :
    multiplyWord c a s rd rn rs rm = w ↔ w.condField = c ∧ HasBits w 22 0b000000#6 ∧ w.bit 21 = a ∧ w.bit 20 = s
      ∧ w.reg16 = rd ∧ w.reg12 = rn ∧ w.reg8 = rs ∧ HasBits w 4 0b1001#4 ∧ w.reg0 = rm := by
  rw [← hasBits_all, multiplyWord]
  simp only [hasBits_append]
  simp only [Nat.reduceAdd, Word.hasBits_cond, hasBits_ofBool, and_assoc]
  rfl

theorem longMultiplyWord_eq_iff {c : Cond} {sg a : Bool} {f : LongMultiplyFields} {w : Word} :
    longMultiplyWord c sg a f = w ↔ w.condField = c ∧ HasBits w 23 0b00001#5 ∧ w.bit 22 = sg ∧ w.bit 21 = a
      ∧ HasBits w 4 0b1001#4 ∧ w.longMultiplyFields = f := by
  obtain ⟨s, rdHi, rdLo, rs, rm⟩ := f
  rw [← hasBits_all, longMultiplyWord]
  simp only [hasBits_append]
  simp only [Nat.reduceAdd, Word.hasBits_cond, hasBits_ofBool, Word.longMultiplyFields, LongMultiplyFields.mk.injEq]
  unfold HasBits Word.bit Word.reg16 Word.reg12 Word.reg8 Word.reg0 Word.field
  tauto

theorem extensionWord_eq_iff {c : Cond} {l sx h : Bool} {f : ExtensionFields} {w : Word} :
    extensionWord c l sx h f = w ↔ w.condField = c ∧ HasBits w 25 0b000#3 ∧ w.bit 20 = l ∧ HasBits w 7 0b1#1
      ∧ w.bit 6 = sx ∧ w.bit 5 = h ∧ HasBits w 4 0b1#1 ∧ w.extensionFields = f := by
  obtain ⟨p, u, im, wb, rn, rd, offHi, offLo⟩ := f
  rw [← hasBits_all, extensionWord]
  simp only [hasBits_append]
  simp only [Nat.reduceAdd, Word.hasBits_cond, hasBits_ofBool, Word.extensionFields, ExtensionFields.mk.injEq]
  unfold HasBits Word.bit Word.reg16 Word.reg12 Word.field
  tauto

theorem mrsWord_eq_iff {c : Cond} {ps : Bool} {rd : Reg} {w : Word} :
    mrsWord c ps rd = w ↔ w.condField = c ∧ HasBits w 23 0b00010#5 ∧ w.bit 22 = ps ∧ HasBits w 16 0b001111#6
      ∧ w.reg12 = rd ∧ HasBits w 0 0b000000000000#12 := by
  rw [← hasBits_all, mrsWord]
  simp only [hasBits_append]
  simp only [Nat.reduceAdd, Word.hasBits_cond, hasBits_ofBool, and_assoc]
  rfl

theorem msrRegWord_eq_iff {c : Cond} {ps : Bool} {fieldMask : BitVec 4} {rm : Reg} {w : Word} :
    msrRegWord c ps fieldMask rm = w ↔ w.condField = c ∧ HasBits w 23 0b00010#5 ∧ w.bit 22 = ps
      ∧ HasBits w 20 0b10#2 ∧ w.field 16 4 = fieldMask ∧ HasBits w 12 0b1111#4 ∧ HasBits w 4 0b00000000#8
      ∧ w.reg0 = rm := by
  rw [← hasBits_all, msrRegWord]
  simp only [hasBits_append]
  simp only [Nat.reduceAdd, Word.hasBits_cond, hasBits_ofBool, and_assoc]
  rfl

theorem msrImmWord_eq_iff {c : Cond} {ps : Bool} {fieldMask : BitVec 4} {o : ImmOperand} {w : Word} :
    msrImmWord c ps fieldMask o = w ↔ w.condField = c ∧ HasBits w 23 0b00110#5 ∧ w.bit 22 = ps
      ∧ HasBits w 20 0b10#2 ∧ w.field 16 4 = fieldMask ∧ HasBits w 12 0b1111#4 ∧ w.immOperand = o := by
  obtain ⟨rotate, imm8⟩ := o
  rw [← hasBits_all, msrImmWord]
  simp only [hasBits_append]
  simp only [Nat.reduceAdd, Word.hasBits_cond, hasBits_ofBool, and_assoc, Word.immOperand, ImmOperand.mk.injEq]
  rfl

theorem dataProcessWord_eq_iff {c : Cond} {i : Bool} {op : Opcode} {s : Bool} {rn rd : Reg} {operand : BitVec 12}
    {w : Word} : dataProcessWord c i op s rn rd operand = w ↔ w.condField = c ∧ HasBits w 26 0b00#2 ∧ w.bit 25 = i
      ∧ HasBits w 21 op.code ∧ w.bit 20 = s ∧ w.reg16 = rn ∧ w.reg12 = rd ∧ HasBits w 0 operand := by
  rw [← hasBits_all, dataProcessWord]
  simp only [hasBits_append]
  simp only [Nat.reduceAdd, Word.hasBits_cond, hasBits_ofBool, and_assoc]
  rfl

theorem hasBits_immOperand {k : Nat} {x : BitVec k} {o : ImmOperand} :
    HasBits x 0 o.bits ↔ ⟨x.extractLsb' 8 4, x.extractLsb' 0 8⟩ = o := by
  obtain ⟨rotate, imm8⟩ := o
  rw [ImmOperand.bits, hasBits_append, ImmOperand.mk.injEq]
  rfl

theorem hasBits_shiftImmOperand {k : Nat} {x : BitVec k} {o : ShiftImmOperand} :
    HasBits x 0 o.bits ↔ HasBits x 4 0b0#1
      ∧ ⟨x.extractLsb' 7 5, .ofCode (x.extractLsb' 5 2), x.extractLsb' 0 4⟩ = o := by
  obtain ⟨shiftImm, type, rm⟩ := o
  rw [ShiftImmOperand.bits]
  simp only [hasBits_append, hasBits_shiftType, ShiftImmOperand.mk.injEq]
  unfold HasBits
  tauto

theorem hasBits_shiftRegOperand {k : Nat} {x : BitVec k} {o : ShiftRegOperand} :
    HasBits x 0 o.bits ↔ HasBits x 7 0b0#1 ∧ HasBits x 4 0b1#1
      ∧ ⟨x.extractLsb' 8 4, .ofCode (x.extractLsb' 5 2), x.extractLsb' 0 4⟩ = o := by
  obtain ⟨rs, type, rm⟩ := o
  rw [ShiftRegOperand.bits]
  simp only [hasBits_append, hasBits_shiftType, ShiftRegOperand.mk.injEq]
  unfold HasBits
  tauto

/-- Bit 25 of a data-processing instruction: set for the immediate operand (30_encoding.md R97). -/
def Operand2.isImm : Operand2 → Bool
  | .imm _ => true
  | .shiftImm _ | .shiftReg _ => false

/-- Bits 11:0 of a data-processing instruction (30_encoding.md R97). -/
def Operand2.bits : Operand2 → BitVec 12
  | .imm o => o.bits
  | .shiftImm o => o.bits
  | .shiftReg o => o.bits

theorem transferWord_eq_iff {c : Cond} {p u b wb l : Bool} {rn rd : Reg} {off : TransferOffset} {w : Word} :
    transferWord c p u b wb l rn rd off = w ↔ w.condField = c ∧ HasBits w 26 0b01#2 ∧ w.bit 25 = off.isReg
      ∧ w.bit 24 = p ∧ w.bit 23 = u ∧ w.bit 22 = b ∧ w.bit 21 = wb ∧ w.bit 20 = l ∧ w.reg16 = rn ∧ w.reg12 = rd
      ∧ HasBits w 0 off.bits := by
  rw [← hasBits_all, transferWord]
  simp only [hasBits_append]
  simp only [Nat.reduceAdd, Word.hasBits_cond, hasBits_ofBool, and_assoc]
  rfl

/-- Bits 25 and 11:0 hold an offset exactly when it is the one read from them and they are not those of decode row 13,
bits 25 and 4 both set (30_encoding.md R99, R100). -/
theorem isReg_and_hasBits_iff {w : Word} {off : TransferOffset} :
    w.bit 25 = off.isReg ∧ HasBits w 0 off.bits ↔ w.transferOffset = off ∧ (w.bit 25 && w.bit 4) = false := by
  cases off with
  | imm imm12 =>
    cases h25 : w.bit 25 with
    | false =>
      simp only [TransferOffset.isReg, TransferOffset.bits, Word.transferOffset, h25, Bool.false_eq_true, if_false,
        TransferOffset.imm.injEq, Bool.false_and, true_and, and_true]
      rfl
    | true => simp [TransferOffset.isReg, Word.transferOffset, h25]
  | reg o =>
    cases h25 : w.bit 25 with
    | false => simp [TransferOffset.isReg, Word.transferOffset, h25]
    | true =>
      simp only [TransferOffset.isReg, TransferOffset.bits, Word.transferOffset, h25, if_true,
        TransferOffset.reg.injEq, Bool.true_and, true_and]
      exact hasBits_shiftImmOperand.trans (and_comm.trans (and_congr_right fun _ => hasBits_ofBool (b := false)))

theorem blockWord_eq_iff {c : Cond} {p u sb wb l : Bool} {rn : Reg} {list : BitVec 16} {w : Word} :
    blockWord c p u sb wb l rn list = w ↔ w.condField = c ∧ HasBits w 25 0b100#3 ∧ w.bit 24 = p ∧ w.bit 23 = u
      ∧ w.bit 22 = sb ∧ w.bit 21 = wb ∧ w.bit 20 = l ∧ w.reg16 = rn ∧ w.field 0 16 = list := by
  rw [← hasBits_all, blockWord]
  simp only [hasBits_append]
  simp only [Nat.reduceAdd, Word.hasBits_cond, hasBits_ofBool, and_assoc]
  rfl

theorem branchWord_eq_iff {c : Cond} {lk : Bool} {offset24 : BitVec 24} {w : Word} :
    branchWord c lk offset24 = w ↔ w.condField = c ∧ HasBits w 25 0b101#3 ∧ w.bit 24 = lk
      ∧ w.field 0 24 = offset24 := by
  rw [← hasBits_all, branchWord]
  simp only [hasBits_append]
  simp only [Nat.reduceAdd, Word.hasBits_cond, hasBits_ofBool, and_assoc]
  rfl

theorem coTransferWord_eq_iff {c : Cond} {l : Bool} {f : CoTransferFields} {w : Word} :
    coTransferWord c l f = w ↔ w.condField = c ∧ HasBits w 25 0b110#3 ∧ w.bit 20 = l ∧ w.coTransferFields = f := by
  obtain ⟨p, u, n, wb, rn, crd, cpNum, offset8⟩ := f
  rw [← hasBits_all, coTransferWord]
  simp only [hasBits_append]
  simp only [Nat.reduceAdd, Word.hasBits_cond, hasBits_ofBool, Word.coTransferFields, CoTransferFields.mk.injEq]
  unfold HasBits Word.bit Word.reg16 Word.field
  tauto

theorem coOperationWord_eq_iff {c : Cond} {opc1 crn crd cpNum : BitVec 4} {opc2 : BitVec 3} {crm : BitVec 4}
    {w : Word} : coOperationWord c opc1 crn crd cpNum opc2 crm = w ↔ w.condField = c ∧ HasBits w 24 0b1110#4
      ∧ w.field 20 4 = opc1 ∧ w.field 16 4 = crn ∧ w.field 12 4 = crd ∧ w.field 8 4 = cpNum ∧ w.field 5 3 = opc2
      ∧ HasBits w 4 0b0#1 ∧ w.field 0 4 = crm := by
  rw [← hasBits_all, coOperationWord]
  simp only [hasBits_append]
  simp only [Nat.reduceAdd, Word.hasBits_cond, and_assoc]
  rfl

theorem coRegisterWord_eq_iff {c : Cond} {l : Bool} {f : CoRegisterFields} {w : Word} :
    coRegisterWord c l f = w ↔ w.condField = c ∧ HasBits w 24 0b1110#4 ∧ w.bit 20 = l ∧ HasBits w 4 0b1#1
      ∧ w.coRegisterFields = f := by
  obtain ⟨opc1, crn, rd, cpNum, opc2, crm⟩ := f
  rw [← hasBits_all, coRegisterWord]
  simp only [hasBits_append]
  simp only [Nat.reduceAdd, Word.hasBits_cond, hasBits_ofBool, Word.coRegisterFields, CoRegisterFields.mk.injEq]
  unfold HasBits Word.bit Word.reg12 Word.field
  tauto

theorem swiWord_eq_iff {c : Cond} {comment24 : BitVec 24} {w : Word} :
    swiWord c comment24 = w ↔ w.condField = c ∧ HasBits w 24 0b1111#4 ∧ w.field 0 24 = comment24 := by
  rw [← hasBits_all, swiWord]
  simp only [hasBits_append]
  simp only [Nat.reduceAdd, Word.hasBits_cond, and_assoc]
  rfl

end Sys2Proof
end

section
/-! PROOFS. Decoding after encoding (30_encoding.md R84, R120): what a format fixes of a word leaves one row that can be
the first to match, and that row reads the fields back. -/

namespace Sys2Proof

/-! ### The first row that can match what is known of a word -/

/-- Every word that matches the row matches (m, p). -/
def Row.within (m p : Word) (r : Row) : Bool := r.mask &&& m == m && r.pattern &&& m == p

theorem Row.hits_of_within {m p w : Word} {r : Row} (h : r.within m p = true) (hit : r.hits w = true) :
    w.hits m p = true := by
  simp only [Row.within, Bool.and_eq_true, beq_iff_eq] at h
  exact Word.hits_of_subsumed hit h.1 h.2

/-- No word that matches (m, p) and misses each of `ns` matches the row: it differs from (m, p) in a bit of both masks,
or lies within one of `ns`. -/
def Row.excluded (m p : Word) (ns : List (Word × Word)) (r : Row) : Bool :=
  m &&& r.mask &&& (p ^^^ r.pattern) != 0 || ns.any fun n => r.within n.1 n.2

theorem Row.misses_of_excluded {m p w : Word} {ns : List (Word × Word)} {r : Row} (h : r.excluded m p ns = true)
    (hw : w.hits m p = true) (hns : ns.Forall fun n => w.hits n.1 n.2 = false) : r.hits w = false := by
  rw [Bool.eq_false_iff]
  intro hr
  obtain hbit | hn := Bool.or_eq_true_iff.mp h
  · simp only [Row.hits, Word.hits, beq_iff_eq] at hw hr
    refine bne_iff_ne.mp hbit (BitVec.eq_of_getLsbD_eq fun i _ => ?_)
    rw [← hw, ← hr]
    simp only [BitVec.getLsbD_and, BitVec.getLsbD_xor]
    cases m.getLsbD i <;> cases r.mask.getLsbD i <;> simp
  · obtain ⟨n, hmem, hsub⟩ := List.any_eq_true.mp hn
    cases (List.forall_iff_forall_mem.mp hns n hmem).symm.trans (Row.hits_of_within hsub hr)

/-- The decoder reads the first row that is not excluded, where that row takes every word of which as much is known. -/
theorem decode_of_first {m p w : Word} {r : Row} (ns : List (Word × Word)) (hw : Known w m p)
    (hns : ns.Forall fun n => w.hits n.1 n.2 = false) (hfirst : rows.find? (fun r => !r.excluded m p ns) = some r)
    (htakes : r.takesAll m p = true) : decode w = r.read w := by
  apply decode_of_find
  obtain ⟨-, pre, post, hrows, hpre⟩ := List.find?_eq_some_iff_append.mp hfirst
  refine List.find?_eq_some_iff_append.mpr ⟨Row.hits_of_takesAll htakes hw, pre, post, hrows, fun q hq => ?_⟩
  have hq' : q.excluded m p ns = true := by simpa using hpre q hq
  rw [Row.misses_of_excluded hq' hw hns]
  rfl

/-! ### Each format's words -/

theorem decode_bxWord (c : Cond) (rm : Reg) : decode (bxWord c rm) = .bx c rm := by
  generalize hw : bxWord c rm = w
  obtain ⟨rfl, hfix, rfl⟩ := bxWord_eq_iff.mp hw
  exact (decode_of_first [] hfix.known trivial rfl rfl).trans rfl

theorem decode_multiplyWord (c : Cond) (a s : Bool) (rd rn rs rm : Reg) :
    decode (multiplyWord c a s rd rn rs rm) = if a then .mla c s rd rn rs rm else .mul c s rd rn rs rm := by
  generalize hw : multiplyWord c a s rd rn rs rm = w
  obtain ⟨rfl, htop, ha, rfl, rfl, rfl, rfl, h4, rfl⟩ := multiplyWord_eq_iff.mp hw
  have hknown := (htop.known.and (known_bit ha)).and h4.known
  cases a <;> exact (decode_of_first [] hknown trivial rfl rfl).trans rfl

theorem decode_longMultiplyWord (c : Cond) (sg a : Bool) (f : LongMultiplyFields) :
    decode (longMultiplyWord c sg a f) =
      if sg then if a then .smlal c f else .smull c f else if a then .umlal c f else .umull c f := by
  generalize hw : longMultiplyWord c sg a f = w
  obtain ⟨rfl, htop, hsg, ha, h4, rfl⟩ := longMultiplyWord_eq_iff.mp hw
  have hknown := (((htop.known.and (known_bit hsg)).and (known_bit ha)).and h4.known)
  cases sg <;> cases a <;> exact (decode_of_first [] hknown trivial rfl rfl).trans rfl

theorem decode_extensionWord (c : Cond) (l : Bool) {sx h : Bool} (hsh : (sx || h) = true) (f : ExtensionFields) :
    decode (extensionWord c l sx h f) =
      if l then if sx then if h then .ldrsh c f else .ldrsb c f else .ldrh c f
      else if sx then .lseUnnamed c h f else .strh c f := by
  generalize hw : extensionWord c l sx h f = w
  obtain ⟨rfl, htop, hl, h7, hsx, hh, h4, rfl⟩ := extensionWord_eq_iff.mp hw
  have hknown := ((((htop.known.and (known_bit hl)).and h7.known).and (known_bit hsx)).and (known_bit hh)).and
    h4.known
  cases sx with
  | true => cases l <;> cases h <;> exact (decode_of_first [] hknown trivial rfl rfl).trans (by simp [hh])
  | false =>
    obtain rfl : h = true := hsh
    cases l <;> exact (decode_of_first [] hknown trivial rfl rfl).trans rfl

theorem decode_mrsWord (c : Cond) (ps : Bool) (rd : Reg) : decode (mrsWord c ps rd) = .mrs c ps rd := by
  generalize hw : mrsWord c ps rd = w
  obtain ⟨rfl, htop, rfl, h16, rfl, h0⟩ := mrsWord_eq_iff.mp hw
  exact (decode_of_first [] ((htop.known.and h16.known).and h0.known) trivial rfl rfl).trans rfl

theorem decode_msrRegWord (c : Cond) (ps : Bool) (fieldMask : BitVec 4) (rm : Reg) :
    decode (msrRegWord c ps fieldMask rm) = .msrReg c ps fieldMask rm := by
  generalize hw : msrRegWord c ps fieldMask rm = w
  obtain ⟨rfl, htop, rfl, h20, rfl, h12, h4, rfl⟩ := msrRegWord_eq_iff.mp hw
  exact (decode_of_first [] (((htop.known.and h20.known).and h12.known).and h4.known) trivial rfl rfl).trans rfl

theorem decode_msrImmWord (c : Cond) (ps : Bool) (fieldMask : BitVec 4) (o : ImmOperand) :
    decode (msrImmWord c ps fieldMask o) = .msrImm c ps fieldMask o := by
  generalize hw : msrImmWord c ps fieldMask o = w
  obtain ⟨rfl, htop, rfl, h20, rfl, h12, rfl⟩ := msrImmWord_eq_iff.mp hw
  exact (decode_of_first [] ((htop.known.and h20.known).and h12.known) trivial rfl rfl).trans rfl

theorem decode_branchWord (c : Cond) (lk : Bool) (offset24 : BitVec 24) :
    decode (branchWord c lk offset24) = if lk then .bl c offset24 else .b c offset24 := by
  generalize hw : branchWord c lk offset24 = w
  obtain ⟨rfl, htop, hlk, rfl⟩ := branchWord_eq_iff.mp hw
  have hknown := htop.known.and (known_bit hlk)
  cases lk <;> exact (decode_of_first [] hknown trivial rfl rfl).trans rfl

theorem decode_coTransferWord (c : Cond) (l : Bool) (f : CoTransferFields) :
    decode (coTransferWord c l f) = if l then .ldc c f else .stc c f := by
  generalize hw : coTransferWord c l f = w
  obtain ⟨rfl, htop, hl, rfl⟩ := coTransferWord_eq_iff.mp hw
  have hknown := htop.known.and (known_bit hl)
  cases l <;> exact (decode_of_first [] hknown trivial rfl rfl).trans rfl

theorem decode_coOperationWord (c : Cond) (opc1 crn crd cpNum : BitVec 4) (opc2 : BitVec 3) (crm : BitVec 4) :
    decode (coOperationWord c opc1 crn crd cpNum opc2 crm) = .cdp c opc1 crn crd cpNum opc2 crm := by
  generalize hw : coOperationWord c opc1 crn crd cpNum opc2 crm = w
  obtain ⟨rfl, htop, rfl, rfl, rfl, rfl, rfl, h4, rfl⟩ := coOperationWord_eq_iff.mp hw
  exact (decode_of_first [] (htop.known.and h4.known) trivial rfl rfl).trans rfl

theorem decode_coRegisterWord (c : Cond) (l : Bool) (f : CoRegisterFields) :
    decode (coRegisterWord c l f) = if l then .mrc c f else .mcr c f := by
  generalize hw : coRegisterWord c l f = w
  obtain ⟨rfl, htop, hl, h4, rfl⟩ := coRegisterWord_eq_iff.mp hw
  have hknown := (htop.known.and (known_bit hl)).and h4.known
  cases l <;> exact (decode_of_first [] hknown trivial rfl rfl).trans rfl

theorem decode_swiWord (c : Cond) (comment24 : BitVec 24) : decode (swiWord c comment24) = .swi c comment24 := by
  generalize hw : swiWord c comment24 = w
  obtain ⟨rfl, htop, rfl⟩ := swiWord_eq_iff.mp hw
  exact (decode_of_first [] htop.known trivial rfl rfl).trans rfl

theorem decode_blockWord (c : Cond) (t : Machine.BlockTransfer) :
    decode (blockWord c t.p t.u t.sb t.w t.l t.rn t.list) = Machine.blockInstr c t := by
  obtain ⟨p, u, sb, wb, l, rn, list⟩ := t
  generalize hw : blockWord c p u sb wb l rn list = w
  obtain ⟨rfl, htop, hp, hu, rfl, rfl, hl, rfl, rfl⟩ := blockWord_eq_iff.mp hw
  have hknown := ((htop.known.and (known_bit hp)).and (known_bit hu)).and (known_bit hl)
  cases p <;> cases u <;> cases l <;> exact (decode_of_first [] hknown trivial rfl rfl).trans rfl

/-- A compare opcode fixes S (42_data_processing.md R176), the other opcodes leave it free. -/
theorem known_compares {op : Opcode} {w : Word} (h : (Machine.compares op && !w.bit 20) = false) :
    Known w ((BitVec.ofBool (Machine.compares op)).setWidth 32 <<< 20)
      ((BitVec.ofBool (Machine.compares op)).setWidth 32 <<< 20) := by
  cases hc : Machine.compares op with
  | false => exact beq_iff_eq.mpr (BitVec.and_zero (x := w))
  | true =>
    rw [hc] at h
    exact known_bit (by simpa using h)

theorem decode_dataProcessWord (c : Cond) {op : Opcode} {s : Bool} (hs : (Machine.compares op && !s) = false)
    (rn rd : Reg) (o : Operand2) :
    decode (dataProcessWord c o.isImm op s rn rd o.bits) = Machine.dataInstr op c s rn rd o := by
  generalize hw : dataProcessWord c o.isImm op s rn rd o.bits = w
  obtain ⟨rfl, htop, hi, hop, rfl, rfl, rfl, ho⟩ := dataProcessWord_eq_iff.mp hw
  have hknown := (htop.known.and hop.known).and (known_compares hs)
  cases o with
  | imm o =>
    obtain rfl := hasBits_immOperand.mp ho
    replace hknown := hknown.and (known_bit (b := true) hi)
    cases op <;> exact (decode_of_first [] hknown trivial rfl rfl).trans rfl
  | shiftImm o =>
    obtain ⟨h4, rfl⟩ := hasBits_shiftImmOperand.mp ho
    replace hknown := (hknown.and (known_bit (b := false) hi)).and h4.known
    cases op <;> exact (decode_of_first [] hknown trivial rfl rfl).trans rfl
  | shiftReg o =>
    obtain ⟨h7, h4, rfl⟩ := hasBits_shiftRegOperand.mp ho
    replace hknown := ((hknown.and (known_bit (b := false) hi)).and h7.known).and h4.known
    cases op <;> exact (decode_of_first [] hknown trivial rfl rfl).trans rfl

/-- A word with bits 25 and 4 not both set is none of decode row 13 (30_encoding.md R99). -/
theorem misses_row13 {w : Word} (h : (w.bit 25 && w.bit 4) = false) : w.hits 0x0E000010 0x06000010 = false := by
  rw [Bool.eq_false_iff]
  intro hit
  have h25 : w.bit 25 = true := Word.getLsbD_of_hits hit rfl
  have h4 : w.bit 4 = true := Word.getLsbD_of_hits hit rfl
  rw [h25, h4] at h
  cases h

/-- With P = 1 or W = 0 a single transfer is no T form (44_single_data_transfer.md R221 to R226). -/
theorem singleInstr_of_not_tForm {c : Cond} {p u b wb l : Bool} {rn rd : Reg} {off : TransferOffset}
    (h : (p || !wb) = true) : Machine.singleInstr c ⟨p, u, b, wb, l, rn, rd, off⟩ = match b, l with
      | false, true => .ldr c p u wb rn rd off
      | false, false => .str c p u wb rn rd off
      | true, true => .ldrb c p u wb rn rd off
      | true, false => .strb c p u wb rn rd off := by
  have hT : (!p && wb) = false := by cases p <;> simp_all
  cases b <;> cases l <;> simp [Machine.singleInstr, hT]

theorem decode_transferWord (c : Cond) (t : Machine.SingleTransfer) :
    decode (transferWord c t.p t.u t.b t.w t.l t.rn t.rd t.off) = Machine.singleInstr c t := by
  obtain ⟨p, u, b, wb, l, rn, rd, off⟩ := t
  generalize hw : transferWord c p u b wb l rn rd off = w
  obtain ⟨rfl, htop, h25, hp, rfl, hb, hwb, hl, rfl, rfl, ho⟩ := transferWord_eq_iff.mp hw
  obtain ⟨rfl, h4⟩ := isReg_and_hasBits_iff.mp ⟨h25, ho⟩
  have hknown := (((htop.known.and (known_bit hp)).and (known_bit hb)).and (known_bit hwb)).and (known_bit hl)
  have hrow13 := misses_row13 h4
  cases p <;> cases b <;> cases wb <;> cases l <;>
    exact (decode_of_first [(0x0E000010, 0x06000010)] hknown hrow13 rfl rfl).trans
      (by simp [Machine.singleInstr, hp, hwb])

/-! ### The round trip from instructions -/

/-- Settles O1, format by format: the word's fields are the instruction's, and its row is the first that can match. -/
theorem encodingDecodesBack : Obligations.EncodingDecodesBack := by
  intro i hwf
  cases i
  case bx => exact decode_bxWord ..
  case mul | mla => exact decode_multiplyWord ..
  case umull | umlal | smull | smlal => exact decode_longMultiplyWord ..
  case swp | swpb | undRow13 => exact (decode_of_first [] hwf trivial rfl rfl).trans rfl
  case undRow4 raw =>
    simp only [Instr.wf, Word.inRow4Remainder, Bool.and_eq_true, Bool.not_eq_true'] at hwf
    obtain ⟨⟨⟨⟨hrow4, hrow2⟩, hrow3⟩, hswp⟩, hswpb⟩ := hwf
    exact (decode_of_first [(0x0FC000F0, 0x00000090), (0x0F8000F0, 0x00800090), (0x0FF00FF0, 0x01000090),
      (0x0FF00FF0, 0x01400090)] hrow4 ⟨hrow2, hrow3, hswp, hswpb⟩ rfl rfl).trans rfl
  case undRow9 raw =>
    simp only [Instr.wf, Word.inRow9Remainder, Bool.and_eq_true, Bool.not_eq_true'] at hwf
    obtain ⟨⟨⟨⟨⟨⟨hrow9, hrow1⟩, hrow4⟩, hrow5⟩, hrow6⟩, hrow7⟩, hrow8⟩ := hwf
    exact (decode_of_first [(0x0FFFFFF0, 0x012FFF10), (0x0E0000F0, 0x00000090), (0x0E000090, 0x00000090),
      (0x0FBF0FFF, 0x010F0000), (0x0FB0FFF0, 0x0120F000), (0x0FB0F000, 0x0320F000)] hrow9
      ⟨hrow1, hrow4, hrow5, hrow6, hrow7, hrow8⟩ rfl rfl).trans rfl
  case strh | ldrh | ldrsb | ldrsh | lseUnnamed => exact decode_extensionWord _ _ rfl _
  case mrs => exact decode_mrsWord ..
  case msrReg => exact decode_msrRegWord ..
  case msrImm => exact decode_msrImmWord ..
  case andImm | eorImm | subImm | rsbImm | addImm | adcImm | sbcImm | rscImm | tstImm | teqImm | cmpImm | cmnImm
      | orrImm | movImm | bicImm | mvnImm => exact decode_dataProcessWord _ rfl _ _ (.imm _)
  case andShImm | eorShImm | subShImm | rsbShImm | addShImm | adcShImm | sbcShImm | rscShImm | tstShImm | teqShImm
      | cmpShImm | cmnShImm | orrShImm | movShImm | bicShImm | mvnShImm =>
    exact decode_dataProcessWord _ rfl _ _ (.shiftImm _)
  case andShReg | eorShReg | subShReg | rsbShReg | addShReg | adcShReg | sbcShReg | rscShReg | tstShReg | teqShReg
      | cmpShReg | cmnShReg | orrShReg | movShReg | bicShReg | mvnShReg =>
    exact decode_dataProcessWord _ rfl _ _ (.shiftReg _)
  case ldrt c u rn rd off => exact decode_transferWord c ⟨false, u, false, true, true, rn, rd, off⟩
  case strt c u rn rd off => exact decode_transferWord c ⟨false, u, false, true, false, rn, rd, off⟩
  case ldrbt c u rn rd off => exact decode_transferWord c ⟨false, u, true, true, true, rn, rd, off⟩
  case strbt c u rn rd off => exact decode_transferWord c ⟨false, u, true, true, false, rn, rd, off⟩
  case ldr c p u wb rn rd off =>
    exact (decode_transferWord c ⟨p, u, false, wb, true, rn, rd, off⟩).trans (singleInstr_of_not_tForm hwf)
  case str c p u wb rn rd off =>
    exact (decode_transferWord c ⟨p, u, false, wb, false, rn, rd, off⟩).trans (singleInstr_of_not_tForm hwf)
  case ldrb c p u wb rn rd off =>
    exact (decode_transferWord c ⟨p, u, true, wb, true, rn, rd, off⟩).trans (singleInstr_of_not_tForm hwf)
  case strb c p u wb rn rd off =>
    exact (decode_transferWord c ⟨p, u, true, wb, false, rn, rd, off⟩).trans (singleInstr_of_not_tForm hwf)
  case ldmia c sb wb rn list => exact decode_blockWord c ⟨false, true, sb, wb, true, rn, list⟩
  case ldmib c sb wb rn list => exact decode_blockWord c ⟨true, true, sb, wb, true, rn, list⟩
  case ldmda c sb wb rn list => exact decode_blockWord c ⟨false, false, sb, wb, true, rn, list⟩
  case ldmdb c sb wb rn list => exact decode_blockWord c ⟨true, false, sb, wb, true, rn, list⟩
  case stmia c sb wb rn list => exact decode_blockWord c ⟨false, true, sb, wb, false, rn, list⟩
  case stmib c sb wb rn list => exact decode_blockWord c ⟨true, true, sb, wb, false, rn, list⟩
  case stmda c sb wb rn list => exact decode_blockWord c ⟨false, false, sb, wb, false, rn, list⟩
  case stmdb c sb wb rn list => exact decode_blockWord c ⟨true, false, sb, wb, false, rn, list⟩
  case b | bl => exact decode_branchWord ..
  case ldc | stc => exact decode_coTransferWord ..
  case cdp => exact decode_coOperationWord ..
  case mcr | mrc => exact decode_coRegisterWord ..
  case swi => exact decode_swiWord ..
  case undLast => cases hwf

theorem decode_eq_of_encode {i : Instr} {w : Word} (hwf : i.wf = true) (h : encode i = w) : decode w = i :=
  h ▸ encodingDecodesBack i hwf

/-- Settles O4: the fields moved to their places are the fields appended, and those are a word of the format. -/
theorem dataProcessFieldsSurvive : Obligations.DataProcessFieldsSurvive := by
  intro c i op s rn rd operand hS hoperand
  have hdecode (o : Operand2) (hi : o.isImm = i) (ho : HasBits operand 0 o.bits) :
      decode (dataProcessWord c i op s rn rd operand) = Machine.dataInstr op c s rn rd o := by
    rw [← hi, ← hasBits_all.mp ho]
    exact decode_dataProcessWord c (by simpa using hS) rn rd o
  have hword : dataProcessWord c i op s rn rd operand =
      c.code.setWidth 32 <<< 28 ||| (BitVec.ofBool i).setWidth 32 <<< 25 ||| op.code.setWidth 32 <<< 21
      ||| (BitVec.ofBool s).setWidth 32 <<< 20 ||| rn.setWidth 32 <<< 16 ||| rd.setWidth 32 <<< 12 ||| operand.setWidth 32 := by
    rw [← (dataProcessWord c i op s rn rd operand).setWidth_eq, dataProcessWord]
    simp only [BitVec.setWidth_append_eq_shiftLeft_setWidth_or, BitVec.shiftLeft_or_distrib, ← BitVec.shiftLeft_add]
    simp
  rw [← hword]
  apply hdecode
  · cases i
    · cases h4 : operand.getLsbD 4 <;> rfl
    · rfl
  · cases i with
    | true => exact hasBits_immOperand.mpr rfl
    | false =>
      cases h4 : operand.getLsbD 4 with
      | false => exact hasBits_shiftImmOperand.mpr ⟨hasBits_ofBool.mpr h4, rfl⟩
      | true =>
        have h7 : operand.getLsbD 7 = false := by simpa [h4] using hoperand
        exact hasBits_shiftRegOperand.mpr ⟨hasBits_ofBool.mpr h7, hasBits_ofBool.mpr h4, rfl⟩

/-- Settles O5: the instruction encodes to the word, which is a word of row 10 only. -/
theorem workedDecodeOfMov : Obligations.WorkedDecodeOfMov := by
  have hdecode : decode 0xE3A00001 = .movImm .al false 0 0 ⟨0, 1⟩ := decode_eq_of_encode rfl rfl
  exact ⟨by simp, rfl, hdecode, congrArg Instr.cls hdecode, by decide⟩

/-- Settles O6: each instruction is well formed and encodes to its word. -/
theorem sampleWordsDecode : Obligations.SampleWordsDecode := by
  unfold Obligations.SampleWordsDecode
  and_intros
  all_goals exact decode_eq_of_encode rfl rfl

end Sys2Proof
end

section
/-! PROOFS. Encoding after decoding (30_encoding.md R81, R83): the first row that matches a word reads every bit of it;
and the class of that row is the class of the twenty-row table. -/

namespace Sys2Proof

/-! ### What a match says of a word's fields -/

/-- A field that a row's mask asks for in full holds what the row's pattern has there. -/
theorem Word.hasBits_iff_of_hits {w m p : Word} (h : w.hits m p = true) {lo n : Nat} {v : BitVec n}
    (hm : m.extractLsb' lo n = BitVec.allOnes n) : HasBits w lo v ↔ p.extractLsb' lo n = v := by
  obtain rfl : w &&& m = p := by simpa [Word.hits] using h
  rw [HasBits, BitVec.extractLsb'_and, hm, BitVec.and_allOnes]

theorem Word.bit_of_hits {w m p : Word} (h : w.hits m p = true) {k : Nat} (hm : m.getLsbD k = true) :
    w.bit k = p.getLsbD k := Word.getLsbD_of_hits h hm

/-- A bit whose value `b` would make a matching word match a row that it misses has the other value. -/
theorem Word.bit_of_misses {w m p : Word} {k : Nat} {b : Bool} (h : w.hits m p = true)
    (hmiss : w.hits (m ||| .twoPow 32 k) (p ||| if b = true then .twoPow 32 k else 0) = false) : w.bit k = !b := by
  rw [Bool.eq_not]
  rintro rfl
  rw [Word.hits_fixBit h k] at hmiss
  cases hmiss

theorem firstReads_of_listForall {P : Instr → Prop} {w : Word} {rs : List Row}
    (h : rs.Forall fun r => w.hits r.mask r.pattern = true → P (r.read w)) : FirstReads P w rs :=
  firstReads_of_forall (List.forall_iff_forall_mem.mp h)

/-! ### Each row reads every field of its words -/

theorem encode_rowsMultiply (w : Word) : FirstReads (encode · = w) w rowsMultiply := by
  apply firstReads_of_listForall
  simp only [rowsMultiply, List.Forall]
  and_intros
  all_goals
    intro h
    simp [encode, bxWord_eq_iff, multiplyWord_eq_iff, longMultiplyWord_eq_iff, Word.hasBits_iff_of_hits h,
      Word.bit_of_hits h]

/-- A word of decode row 5 that row 4 and the four named transfers miss has L = 0 and Sx = 1 (30_encoding.md R91). -/
theorem Word.lseUnnamed_bits {w : Word} (hit : w.hits 0x0E000090 0x00000090 = true)
    (hrow4 : w.hits 0x0E0000F0 0x00000090 = false) (hstrh : w.hits 0x0E1000F0 0x000000B0 = false)
    (hldrh : w.hits 0x0E1000F0 0x001000B0 = false) (hldrsb : w.hits 0x0E1000F0 0x001000D0 = false)
    (hldrsh : w.hits 0x0E1000F0 0x001000F0 = false) : w.bit 20 = false ∧ w.bit 6 = true := by
  have hrow4' (p : Word) (hp : p &&& 0x0E0000F0 = 0x00000090) : w.hits 0x0E1000F0 p = false := by
    rw [Bool.eq_false_iff]
    intro h
    rw [Word.hits_of_subsumed h rfl hp] at hrow4
    cases hrow4
  have hL : w.hits 0x0E100090 0x00100090 = false :=
    Word.misses_of_halves 6 (Word.misses_of_halves 5 (hrow4' 0x00100090 rfl) hldrh)
      (Word.misses_of_halves 5 hldrsb hldrsh)
  have hSx : w.hits 0x0E1000D0 0x00000090 = false :=
    Word.misses_of_halves 5 (hrow4' 0x00000090 rfl) hstrh
  have h20 : w.bit 20 = false := Word.bit_of_misses (b := true) hit hL
  have hit20 : w.hits 0x0E100090 0x00000090 = true := (known_bit h20).and hit
  exact ⟨h20, Word.bit_of_misses (b := false) hit20 hSx⟩

theorem encode_rowsControl {w : Word} (hmiss : ∀ q ∈ rowsMultiply, q.hits w = false) :
    FirstReads (encode · = w) w rowsControl := by
  rw [← List.take_append_drop 4 rowsControl]
  refine .append (firstReads_of_listForall ?_) fun hmiss' => firstReads_of_listForall ?_
  · simp only [rowsControl, List.take_succ_cons, List.take_zero, List.Forall]
    and_intros
    all_goals
      intro h
      simp [encode, extensionWord_eq_iff, Word.hasBits_iff_of_hits h, Word.bit_of_hits h]
  · simp only [rowsMultiply, List.forall_mem_cons, Row.hits] at hmiss
    obtain ⟨-, -, -, -, -, -, -, -, -, hrow4, -⟩ := hmiss
    simp only [rowsControl, List.take_succ_cons, List.take_zero, List.forall_mem_cons, Row.hits] at hmiss'
    obtain ⟨hstrh, hldrh, hldrsb, hldrsh, -⟩ := hmiss'
    simp only [rowsControl, List.drop_succ_cons, List.drop_zero, List.Forall]
    refine ⟨fun h => ?_, fun h => ?_, fun h => ?_, fun h => ?_, fun _ => rfl⟩
    · obtain ⟨h20, h6⟩ := Word.lseUnnamed_bits h hrow4 hstrh hldrh hldrsb hldrsh
      simp [encode, extensionWord_eq_iff, Word.hasBits_iff_of_hits h, h20, h6]
    · simp [encode, mrsWord_eq_iff, Word.hasBits_iff_of_hits h]
    · simp [encode, msrRegWord_eq_iff, Word.hasBits_iff_of_hits h]
    · simp [encode, msrImmWord_eq_iff, Word.hasBits_iff_of_hits h]

theorem encode_rowsData (w : Word) :
    FirstReads (encode · = w) w (rowsDataImm ++ (rowsDataShImm ++ rowsDataShReg)) := by
  apply firstReads_of_listForall
  simp only [rowsDataImm, rowsDataShImm, rowsDataShReg, List.cons_append, List.nil_append, List.Forall]
  and_intros
  all_goals
    intro h
    simp [encode, dataProcessWord_eq_iff, Opcode.code, hasBits_immOperand, hasBits_shiftImmOperand,
      hasBits_shiftRegOperand, Word.immOperand, Word.shiftImmOperand, Word.shiftRegOperand, Word.reg8, Word.reg0,
      Word.field, Word.hasBits_iff_of_hits h, Word.bit_of_hits h]

theorem encode_rowsTransfer (w : Word) : FirstReads (encode · = w) w rowsTransfer := by
  rw [← List.take_append_drop 1 rowsTransfer]
  refine .append (firstReads_of_listForall fun _ => rfl) fun hmiss => firstReads_of_listForall ?_
  have hrow13 : w.hits 0x0E000010 0x06000010 = false := hmiss _ (List.mem_singleton_self _)
  have hoffset {m p : Word} (h : w.hits m p = true) (hm : m &&& 0x0C000000 = 0x0C000000)
      (hp : p &&& 0x0C000000 = 0x04000000) :
      w.bit 25 = w.transferOffset.isReg ∧ HasBits w 0 w.transferOffset.bits := by
    refine isReg_and_hasBits_iff.mpr ⟨rfl, ?_⟩
    have hit := Word.hits_of_subsumed h hm hp
    cases h25 : w.bit 25 with
    | false => rfl
    | true => exact Word.bit_of_misses (b := true) ((known_bit h25).and hit) hrow13
  simp only [rowsTransfer, List.drop_succ_cons, List.drop_zero, List.Forall]
  and_intros
  all_goals
    intro h
    simp [encode, transferWord_eq_iff, blockWord_eq_iff, Word.hasBits_iff_of_hits h, Word.bit_of_hits h, hoffset h]

theorem encode_rowsTail (w : Word) : FirstReads (encode · = w) w (rowsTail.take 8) := by
  apply firstReads_of_listForall
  simp only [rowsTail, List.take_succ_cons, List.take_zero, List.Forall]
  and_intros
  all_goals
    intro h
    simp [encode, branchWord_eq_iff, coTransferWord_eq_iff, coOperationWord_eq_iff, coRegisterWord_eq_iff,
      swiWord_eq_iff, Word.hasBits_iff_of_hits h, Word.bit_of_hits h]

/-- What holds of the instruction read by the first of the rows before the last holds of the decoded one: they take
every word (30_encoding.md R107). -/
theorem decode_of_rows_before_last {P : Instr → Prop} {w : Word} (h : FirstReads P w (rows.take 92)) :
    P (decode w) := by
  apply decode_of_firstReads
  rw [← List.take_append_drop 92 rows]
  refine h.append fun hmiss => ?_
  obtain ⟨r, hr, hit⟩ := exists_row_before_last w
  rw [hmiss r hr] at hit
  cases hit

/-! ### The round trip from words -/

/-- Every bit of a word is kept (30_encoding.md R83). -/
theorem encode_decode (w : Word) : encode (decode w) = w :=
  decode_of_rows_before_last (P := (encode · = w)) <|
    (encode_rowsMultiply w).append fun hmiss => (encode_rowsControl hmiss).append fun _ =>
      (encode_rowsData w).append fun _ => (encode_rowsTransfer w).append fun _ => encode_rowsTail w

/-- The condition of an instruction stands in bits 31:28 of its word (30_encoding.md R80). -/
theorem condField_encode (i : Instr) : (encode i).condField = i.cond := by
  cases i <;> simp [encode, Instr.cond]

/-- Settles O2, from the fields that each row reads. -/
theorem decodingEncodesBack : Obligations.DecodingEncodesBack := by
  refine fun w => ⟨decode_wf w, encode_decode w, ?_⟩
  rw [← condField_encode, encode_decode]
  rfl

/-! ### The priority table (30_encoding.md R84) -/

/-- The class of every instruction the row reads. -/
def Row.cls (r : Row) : InstrClass := (r.read 0).cls

theorem Row.cls_read {r : Row} (hr : r ∈ rows) (w : Word) : (r.read w).cls = r.cls := by
  have hall : rows.all (fun r => decide ((r.read w).cls = r.cls)) = true := by
    simp only [rows, List.all_append, Bool.and_eq_true]
    exact ⟨rfl, rfl, rfl, rfl, rfl, rfl, rfl⟩
  simpa using List.all_eq_true.mp hall r hr

/-- The class of the first row of a table of masks, patterns and classes that `w` matches, Undefined if there is none
(30_encoding.md R84). -/
def firstClass (table : List (Word × Word × InstrClass)) (w : Word) : InstrClass :=
  (table.find? fun row => w.hits row.1 row.2.1).elim .undefined fun row => row.2.2

/-- The rows `rest` are those of the table's rows in turn: first rows within its first row and of its class, which
together with the rows `done` take all of its words, then those of its other rows. -/
def refines (ks : List Nat) : List (Word × Word × InstrClass) → List Row → List Row → Bool
  | [], _, rest => rest.all (·.cls = .undefined)
  | (m, p, c) :: table, done, rest =>
    let own := rest.takeWhile (·.within m p)
    own.all (·.cls = c) && covers (ks.filter (!m.getLsbD ·)) (done ++ own) m p &&
      refines ks table (done ++ own) (rest.dropWhile (·.within m p))

theorem firstReads_cls_of_refines {w : Word} {ks : List Nat} : ∀ {table : List (Word × Word × InstrClass)}
    {done rest : List Row}, refines ks table done rest = true → (∀ r ∈ rest, (r.read w).cls = r.cls) →
    (∀ q ∈ done, q.hits w = false) → FirstReads (·.cls = firstClass table w) w rest := by
  intro table
  induction table with
  | nil =>
    intro done rest href hcls _
    refine firstReads_of_forall fun r hr _ => (hcls r hr).trans ?_
    simpa [firstClass] using List.all_eq_true.mp href r hr
  | cons row table ih =>
    obtain ⟨m, p, c⟩ := row
    intro done rest href hcls hdone
    simp only [refines, Bool.and_eq_true] at href
    obtain ⟨⟨hown, hcovers⟩, hrest⟩ := href
    rw [← List.takeWhile_append_dropWhile (p := (·.within m p)) (l := rest)] at hcls ⊢
    rw [List.forall_mem_append] at hcls
    obtain ⟨hcls, hcls'⟩ := hcls
    cases hit : w.hits m p with
    | true =>
      have hc : firstClass ((m, p, c) :: table) w = c := by simp [firstClass, hit]
      rw [hc]
      refine .append (firstReads_of_forall fun r hr _ => ?_) fun hmiss => ?_
      · rw [hcls r hr]
        simpa using List.all_eq_true.mp hown r hr
      · obtain ⟨r, hr, hr'⟩ := exists_hits_of_covers hcovers hit
        rw [List.forall_mem_append.mpr ⟨hdone, hmiss⟩ r hr] at hr'
        cases hr'
    | false =>
      have hc : firstClass ((m, p, c) :: table) w = firstClass table w := by simp [firstClass, hit]
      rw [hc]
      refine .append (firstReads_of_forall fun r hr hr' => ?_) fun hmiss =>
        ih hrest hcls' (List.forall_mem_append.mpr ⟨hdone, hmiss⟩)
      rw [Row.hits_of_within (List.mem_takeWhile_imp hr) hr'] at hit
      cases hit

/-- Settles O3: the rows of the table refine the twenty of R84; bits 25 to 20, 7 and 4 tell them apart. -/
theorem classIsFirstMatchOfPriorityTable : Obligations.ClassIsFirstMatchOfPriorityTable := by
  intro w
  exact decode_of_firstReads (P := (·.cls = firstClass _ w)) <|
    firstReads_cls_of_refines (ks := [25, 24, 23, 22, 21, 20, 4, 7]) (done := []) (by decide)
      (fun _ hr => Row.cls_read hr w) nofun

end Sys2Proof
end

section
/-! PROOFS. The immediates of branches and transfers as numbers (30_encoding.md R111, R115). -/

namespace Sys2Proof

/-! ### The offsets of the transfers (44_single_data_transfer.md R212, 30_encoding.md R115) -/

theorem ExtensionFields.toNat_immOffset (f : ExtensionFields) :
    f.immOffset.toNat = 16 * f.offHi.toNat + f.offLo.toNat := by
  rw [ExtensionFields.immOffset, BitVec.toNat_setWidth_of_le (by decide), BitVec.toNat_append,
    ← Nat.shiftLeft_add_eq_or_of_lt f.offLo.isLt, Nat.shiftLeft_eq]
  omega

theorem CoTransferFields.toNat_offset (f : CoTransferFields) : f.offset.toNat = 4 * f.offset8.toNat := by
  rw [CoTransferFields.offset, BitVec.toNat_shiftLeft, BitVec.toNat_setWidth_of_le (by decide), Nat.shiftLeft_eq]
  omega

end Sys2Proof

namespace Sys2Proof.Machine

/-- Settles O35: zero-extension and appended zeroes, as numbers. -/
theorem transferOffsetIsUnsignedOrShifted : Obligations.TransferOffsetIsUnsignedOrShifted := by
  refine ⟨fun s => ⟨fun imm12 => BitVec.toNat_setWidth_of_le (by decide), fun o => rfl⟩, fun f => ?_, fun f => ?_⟩
  · have hvalue := f.toNat_immOffset
    exact ⟨hvalue, by omega⟩
  · have hvalue := f.toNat_offset
    exact ⟨hvalue, by omega⟩

/-! ### The branch displacement (30_encoding.md R111) -/

/-- The two low bits of a displacement are 0, the others are the offset's (30_encoding.md R111). -/
theorem branchDisplacement_eq_append (offset24 : BitVec 24) :
    branchDisplacement offset24 = offset24.signExtend 30 ++ 0b00#2 := by
  apply BitVec.eq_of_getLsbD_eq
  intro k hk
  rw [branchDisplacement, BitVec.getLsbD_append, BitVec.getLsbD_shiftLeft, BitVec.getLsbD_zero]
  by_cases h : k < 2
  · simp [h]
  · have hk2 : k - 2 < 30 := by omega
    simp only [h, hk, hk2, show k - 2 < 32 by omega, BitVec.getLsbD_signExtend, decide_true, decide_false,
      Bool.not_false, Bool.true_and, if_false]

theorem toInt_branchDisplacement (offset24 : BitVec 24) :
    (branchDisplacement offset24).toInt = 4 * offset24.toInt := by
  rw [branchDisplacement_eq_append]
  refine BitVec.toInt_append_zero.trans ?_
  rw [BitVec.toInt_signExtend_of_le (by decide)]
  rfl

/-- Settles O32: the offset, sign-extended, stands above two zeroes. -/
theorem branchDisplacementIsFourTimesOffset : Obligations.BranchDisplacementIsFourTimesOffset := by
  intro offset24
  have hlow := offset24.le_toInt
  have hhigh := offset24.toInt_lt
  rw [toInt_branchDisplacement]
  refine ⟨rfl, by omega, by omega, ?_, ?_, fun k hk hk' => ?_⟩
  · rw [branchDisplacement_eq_append]
    exact BitVec.extractLsb'_append_eq_right
  · rw [branchDisplacement_eq_append, BitVec.extractLsb'_append_eq_of_le (by decide)]
    apply BitVec.eq_of_getLsbD_eq
    intro k hk
    rw [BitVec.getLsbD_extractLsb', BitVec.getLsbD_signExtend]
    simp [hk, show k < 30 by omega]
  · rw [branchDisplacement_eq_append, BitVec.getLsbD_append, if_neg (by omega), BitVec.getLsbD_signExtend,
      if_neg (by omega), BitVec.msb_eq_getLsbD_last, decide_eq_true (by omega), Bool.true_and]

end Sys2Proof.Machine
end

section
/-! PROOFS. The conditions and the step (40_step_pipeline_condition.md): the truth table of R137, what a failed condition
leaves, a result written to the program counter, and what the two slots hold from step to step. -/

namespace Sys2Proof.Machine

/-! ### Conditions (40_step_pipeline_condition.md R137, R138) -/

/-- Settles O15: with every condition written out, a comparison of sixteen columns in sixteen rows. -/
theorem conditionTableMatchesTruthTable : Obligations.ConditionTableMatchesTruthTable := by
  intro p
  simp only [conditionPasses]
  generalize p.n = n, p.z = z, p.c = c, p.v = v
  revert n z c v
  decide

/-- Settles O16: each of the five shapes of an instruction is conditional. -/
theorem failedConditionIsNoOp : Obligations.FailedConditionIsNoOp := by
  intro i s hfail
  obtain ⟨_, _, _, _, _, _, he⟩ | ⟨_, _, _, he⟩ | ⟨_, _, he⟩ | ⟨_, _, he⟩ | ⟨_, he⟩ := exec_cases i
  · rw [he, dataProcess, conditionally_fail hfail]
  · rw [he, branch, conditionally_fail hfail]
  · rw [he, singleTransfer, conditionally_fail hfail]
  · rw [he, blockTransfer, conditionally_fail hfail]
  · rw [he, unexecuted, conditionally_fail hfail]

/-! ### A result written to the program counter (42_data_processing.md R177) -/

/-- A writing opcode with S = 0 and the program counter as destination: the result goes to r15 (42_data_processing.md
R177 case a). -/
theorem exec_dataInstr_jump {op : Opcode} {c : Cond} {s : State} (hc : conditionPasses c s.cpsr = true)
    (hop : compares op = false) (rn : Reg) (o : Operand2) :
    exec (dataInstr op c false rn 15 o) s = .next (s.writeReg 15 (dataProcessOut op rn o s).value) := by
  have hS : sBit op false = false := by rw [sBit, hop, Bool.false_or]
  have hu : dataProcessUnpredictable op false 15 s = false :=
    (dataProcessUnpredictable_pc ..).mpr ⟨hop, nofun⟩
  rw [exec_dataInstr_pass hc, hS, hu, if_neg Bool.false_ne_true, writeFlags, if_neg Bool.false_ne_true,
    writeDestination, hop, if_neg Bool.false_ne_true]

/-- Settles O29: the one write is of r15. -/
theorem dataProcessJumpWithoutS : Obligations.DataProcessJumpWithoutS := by
  intro op c rn o s hc hop
  refine ⟨_, exec_dataInstr_jump hc hop rn o, ?_⟩
  rw [State.writeReg_pc]
  exact ⟨s.regs.get_set_same (.r 15) _, fun p hp => s.regs.get_set_ne _ (by simpa using hp), rfl, rfl,
    ⟨rfl, rfl, rfl, rfl, rfl, rfl⟩, rfl, rfl⟩

/-! ### How a step completes (40_step_pipeline_condition.md R130) -/

/-- Settles O52: the completion of the step, written out. -/
theorem stepRunsTheDecodedInstruction : Obligations.StepRunsTheDecodedInstruction := by
  intro s t i hh hd he
  rw [step_instr hh hd he, State.completeStep, State.flush, State.advance_eq]
  rfl

theorem State.completeStep_halted {s : State} (h : s.halted.isSome = true) :
    s.completeStep = { s with branched := false } :=
  if_pos h

theorem State.completeStep_advance {s : State} (hh : s.halted = none) (hb : s.branched = false) :
    s.completeStep = s.advance := by
  simp [State.completeStep, hh, hb]

theorem State.beginStep_eq_self {s : State} (hb : s.branched = false) : s.beginStep = s := by
  rw [State.beginStep, ← hb]

/-- What a step that does not halt has decoded: what was fetched before it, unless it has flushed. -/
theorem step_decoded {s t : State} (hh : s.halted = none) (hstep : step s = .next t) (ht : t.halted = none) :
    t.decoded = s.fetched.decodeNow ∨ (t.fetched = .none ∧ t.decoded = .none) := by
  obtain ⟨hhalt, _⟩ | ⟨_, u, hu, he⟩ := step_cases s
  · simp [hh] at hhalt
  cases he.symm.trans hstep
  obtain ⟨hhalt, hc⟩ | ⟨_, _, hc⟩ | ⟨_, _, hc⟩ := u.completeStep_cases <;> rw [hc] at ht ⊢
  · exact absurd hhalt (by simpa using ht)
  · exact .inr ⟨rfl, rfl⟩
  · exact .inl (by rw [State.advance_decoded, hu.coreKept.fetched])

/-! ### Start-up (40_step_pipeline_condition.md R139, 70_reset_and_hazards.md R307) -/

/-- The first two steps from empty slots only decode, fetch and advance. -/
theorem step_startup {s : State} (hh : s.halted = none) (hb : s.branched = false) (hf : s.fetched = .none)
    (hd : s.decoded = .none) : step s = .next s.advance ∧ step s.advance = .next s.advance.advance :=
  ⟨step_idle hh hb hd, step_idle hh hb (by rw [State.advance_decoded, hf]; rfl)⟩

theorem State.advance_advance_pc (s : State) : s.advance.advance.pc = s.pc + 8 := by
  rw [advance_pc, advance_pc, BitVec.add_assoc]
  rfl

theorem State.advance_advance_bus (s : State) :
    s.advance.advance.bus = (s.bus.afterRead s.pc).afterRead (s.pc + 4) := by
  rw [advance_bus, advance_pc, advance_bus]

theorem regsKeptBut_advance (s : State) : RegsKeptBut [.r 15] s s.advance := fun p hp =>
  s.regs.get_set_ne _ (by simpa using hp)

theorem regsKeptBut_advance_advance (s : State) : RegsKeptBut [.r 15] s s.advance.advance := fun p hp =>
  (regsKeptBut_advance s.advance p hp).trans (regsKeptBut_advance s p hp)

theorem State.advance_fetched_word {s : State} {w : Word} (h : s.bus.read s.pc = some w) :
    s.advance.fetched = .word w := by
  rw [advance_fetched, h]

theorem State.advance_fetched_fault {s : State} (h : s.bus.read s.pc = none) :
    s.advance.fetched = .fetchFault s.pc := by
  rw [advance_fetched, h]

/-- Settles O53: two idle steps, after which the word stands decoded. -/
theorem wordAtProgramCounterRunsInThirdStep : Obligations.WordAtProgramCounterRunsInThirdStep := by
  intro s w hh hb hf hd hw
  obtain ⟨hfirst, hsecond⟩ := step_startup hh hb hf hd
  have hdecoded : s.advance.advance.decoded = .instr (decode w) := by
    rw [State.advance_decoded, State.advance_fetched_word hw]
    rfl
  have hbranched : s.advance.advance.branched = false := hb
  refine ⟨_, _, hfirst, hsecond, State.advance_fetched_word hw, ?_, s.advance_pc, hdecoded, s.advance_advance_pc, hh, hb,
    regsKeptBut_advance_advance s, rfl, rfl, s.advance_advance_bus, fun hplain hplain' => ?_, ?_, fun t ht => ?_⟩
  · rw [State.advance_decoded, hf]
    rfl
  · rw [State.advance_advance_bus, Bus.afterRead_plain hplain, Bus.afterRead_plain hplain']
  · rw [State.advance_busLog, State.advance_pc, State.advance_bus, State.advance_busLog, hw]
  · exact step_instr hh hdecoded (by rwa [State.beginStep_eq_self hbranched])

/-! ### Deferred fetch faults (40_step_pipeline_condition.md R133) -/

/-- The step that finds a deferred fetch fault decoded halts with it. -/
theorem step_fetchFault {s : State} {a : Word} (hh : s.halted = none) (hd : s.decoded = .fetchFault a) :
    step s = .next { s with branched := false, halted := some (.busFault a .fetch) } := by
  have hstep : step s = .next (s.beginStep.halt (.busFault a .fetch)).completeStep := by simp [step, hh, hd]
  exact hstep.trans (congrArg _ (State.completeStep_halted rfl))

/-- What the advance does where the fetch faults: it does not halt, and the fault waits in `fetched`. -/
theorem State.advance_of_fault {s : State} (hh : s.halted = none) (h : s.bus.read s.pc = none) :
    s.advance.halted = none ∧ s.advance.fetched = .fetchFault s.pc ∧ s.advance.pc = s.pc + 4 :=
  ⟨hh, advance_fetched_fault h, s.advance_pc⟩

/-- A step with nothing decoded advances, whatever `branched` was. -/
theorem step_idle_beginStep {s : State} (hh : s.halted = none) (hd : s.decoded = .none) :
    step s = .next s.beginStep.advance := by
  have hstep : step s = .next s.beginStep.completeStep := by simp [step, hh, hd]
  exact hstep.trans (congrArg _ (State.completeStep_advance (s := s.beginStep) hh rfl))

/-- Settles O57: the halt, the fetch after an instruction and with nothing decoded, the move to `decoded`, and the three
steps from empty slots. -/
theorem fetchFaultIsDeferredToExecution : Obligations.FetchFaultIsDeferredToExecution := by
  refine ⟨fun s a => step_fetchFault, fun s t i hh hd he ht hb hr => ?_, fun s hh hd hr => ?_,
    fun s t a hh hf hstep ht => ?_, fun s hh hb hf hd hr => ?_⟩
  · exact ⟨_, by rw [step_instr hh hd he, State.completeStep_advance ht hb], State.advance_of_fault ht hr⟩
  · exact ⟨_, step_idle_beginStep hh hd, State.advance_of_fault (s := s.beginStep) hh hr⟩
  · have hdecoded := step_decoded hh hstep ht
    rwa [hf] at hdecoded
  · obtain ⟨hfirst, hsecond⟩ := step_startup hh hb hf hd
    have hdecoded : s.advance.advance.decoded = .fetchFault s.pc := by
      rw [State.advance_decoded, State.advance_fetched_fault hr]
      rfl
    have hbranched : s.advance.advance.branched = false := hb
    refine ⟨_, _, hfirst, hsecond, hh, State.advance_fetched_fault hr, hh, hdecoded, s.advance_advance_pc,
      regsKeptBut_advance_advance s, rfl, s.advance_advance_bus, ?_⟩
    rw [step_fetchFault (s := s.advance.advance) hh hdecoded, ← hbranched]

end Sys2Proof.Machine
end

section
/-! PROOFS. The shifter (41_shifter_operand.md): rotation bit by bit, the shifts by an immediate as arithmetic, and the
saturation of the shifts by a register. -/

namespace Sys2Proof.Machine

/-! ### Rotation (41_shifter_operand.md R152, R158, R160) -/

theorem Word.getLsbD_rotateRight (v : Word) (r : Nat) {k : Nat} (hk : k < 32) :
    (v.rotateRight r).getLsbD k = v.getLsbD ((k + r) % 32) := by
  rw [BitVec.getLsbD_rotateRight, Bool.cond_decide]
  split
  · congr 1
    omega
  · rw [decide_eq_true hk, Bool.true_and]
    congr 1
    omega

/-- The bit last rotated out is bit 31 of the result (R158). -/
theorem Word.getLsbD_last_rotateRight (v : Word) {n : Nat} (h0 : 0 < n) (h : n ≤ 32) :
    (v.rotateRight n).getLsbD 31 = v.getLsbD (n - 1) := by
  rw [Word.getLsbD_rotateRight v n (by decide)]
  congr 1
  omega

theorem Word.rotateRight_eq_or (v : Word) {n : Nat} (h : n < 32) : v.rotateRight n = v >>> n ||| v <<< (32 - n) := by
  rw [BitVec.rotateRight_def, Nat.mod_eq_of_lt h]

/-- RRX bit by bit: the carry enters above the source (R160). -/
theorem getLsbD_rrx (v : Word) (c : Bool) {k : Nat} (hk : k < 32) :
    ((BitVec.ofBool c).setWidth 32 <<< 31 ||| v >>> 1).getLsbD k = if k = 31 then c else v.getLsbD (k + 1) := by
  rw [BitVec.getLsbD_or, BitVec.getLsbD_shiftLeft, BitVec.getLsbD_ushiftRight, Nat.add_comm 1 k]
  split
  case isTrue h =>
    subst h
    simp
  case isFalse h =>
    have hlow : k < 31 := by omega
    simp [hlow]

/-- Settles O17: a rotation of the zero-extended immediate, and the carry as the model writes it. -/
theorem immediateOperandRotates : Obligations.ImmediateOperandRotates := by
  refine fun o c => ⟨fun k hk => ?_, rfl⟩
  have hmod : (k + 2 * o.rotate.toNat) % 32 < 32 := Nat.mod_lt _ (by decide)
  calc (immediateOperand o c).value.getLsbD k
    _ = (o.imm8.setWidth 32).getLsbD ((k + 2 * o.rotate.toNat) % 32) := Word.getLsbD_rotateRight _ _ hk
    _ = o.imm8.getLsbD ((k + 2 * o.rotate.toNat) % 32) := by
      rw [BitVec.getLsbD_setWidth, decide_eq_true hmod, Bool.true_and]

/-! ### Shifts by an immediate (41_shifter_operand.md R155 to R160) -/

theorem shiftByImmediate_of_ne (v : Word) (type : ShiftType) {n : BitVec 5} (h : n ≠ 0) (c : Bool) :
    shiftByImmediate v type n c = shiftBy v type n.toNat :=
  if_neg h

theorem shiftAmount_pos {n : BitVec 5} (h : n ≠ 0) : 0 < n.toNat :=
  Nat.pos_of_ne_zero (BitVec.toNat_ne.mp h)

/-- Settles O18: LSL and ROR by 0, and by the other amounts. -/
theorem leftShiftAndRotateByImmediate : Obligations.LeftShiftAndRotateByImmediate := by
  intro v n c
  refine ⟨?_, fun hn => ?_, fun hn => ?_, ?_⟩
  · rintro rfl
    rfl
  · rw [shiftByImmediate_of_ne v .lsl hn]
    exact ⟨by rw [shiftBy, BitVec.toNat_shiftLeft, Nat.shiftLeft_eq], rfl⟩
  · rw [shiftByImmediate_of_ne v .ror hn]
    exact ⟨Word.rotateRight_eq_or v n.isLt, rfl,
      (Word.getLsbD_last_rotateRight v (shiftAmount_pos hn) n.isLt.le).symm⟩
  · rintro rfl
    refine ⟨fun k hk => ?_, getLsbD_rrx v c (by decide), rfl⟩
    exact (getLsbD_rrx v c (by omega)).trans (if_neg (by omega))

theorem signFill_toInt (v : Word) : (signFill v).toInt = if v.getLsbD 31 then -1 else 0 := by
  unfold signFill
  split <;> rfl

/-- An arithmetic shift is the division of the signed value, rounded down (R157). -/
theorem Word.toInt_sshiftRight (v : Word) (n : Nat) : (v.sshiftRight n).toInt = v.toInt.fdiv (2 ^ n) := by
  rw [BitVec.toInt_sshiftRight, Int.shiftRight_eq_div_pow, Int.fdiv_eq_ediv_of_nonneg _ (by positivity),
    Nat.cast_pow, Nat.cast_ofNat]

/-- Settles O19: LSR and ASR by 0, which means 32, and by the other amounts. -/
theorem rightShiftByImmediate : Obligations.RightShiftByImmediate := by
  refine fun v n c => ⟨?_, fun hn => ?_⟩
  · rintro rfl
    exact ⟨rfl, signFill_toInt v, rfl⟩
  · rw [shiftByImmediate_of_ne v .lsr hn, shiftByImmediate_of_ne v .asr hn]
    exact ⟨Nat.shiftRight_eq_div_pow .., rfl, Word.toInt_sshiftRight v n.toNat, rfl⟩

/-! ### Shifts by a register (41_shifter_operand.md R161 to R166) -/

/-- The amount is the low byte of Rs (R161). -/
theorem operand2_shiftReg {rs : Reg} {s : State} {n : Nat} (h : (s.getReg rs).toNat % 256 = n) (type : ShiftType)
    (rm : Reg) : operand2 (.shiftReg ⟨rs, type, rm⟩) s =
      shiftByRegister (s.getReg rm) type (BitVec.ofNat 8 n) s.cpsr.c := by
  have hbyte : (s.getReg rs).extractLsb' 0 8 = BitVec.ofNat 8 n := by
    refine BitVec.eq_of_toNat_eq ((BitVec.extractLsb'_toNat ..).trans ?_)
    rw [BitVec.toNat_ofNat, ← h, Nat.mod_mod]
    rfl
  rw [← hbyte]
  rfl

theorem shiftAmount_toNat {rs : Reg} {s : State} {n : Nat} (h : (s.getReg rs).toNat % 256 = n) :
    (BitVec.ofNat 8 n).toNat = n := by
  rw [BitVec.toNat_ofNat]
  omega

theorem shiftByRegister_of_lt {b : BitVec 8} (h0 : 0 < b.toNat) (h : b.toNat < 32) (v : Word) (type : ShiftType)
    (c : Bool) : shiftByRegister v type b c = shiftBy v type b.toNat := by
  have hne : b ≠ 0 := BitVec.toNat_ne.mpr h0.ne'
  exact (if_neg hne).trans (if_pos h)

/-- From 1 to 31 both layouts of the amount shift alike (R162). -/
theorem shiftByRegister_eq_shiftByImmediate {n : Nat} (h0 : 0 < n) (h : n < 32) (v : Word) (type : ShiftType)
    (c : Bool) : shiftByRegister v type (BitVec.ofNat 8 n) c = shiftByImmediate v type (BitVec.ofNat 5 n) c := by
  have h8 : (BitVec.ofNat 8 n).toNat = n := Nat.mod_eq_of_lt (by omega)
  have h5 : (BitVec.ofNat 5 n).toNat = n := Nat.mod_eq_of_lt h
  have hne : BitVec.ofNat 5 n ≠ 0 := BitVec.toNat_ne.mpr (h5.trans_ne h0.ne')
  rw [shiftByRegister_of_lt (by rwa [h8]) (by rwa [h8]), shiftByImmediate_of_ne v type hne, h8, h5]

/-- Above 32 none of the special amounts is met, and only the type decides (R163, R164). -/
theorem shiftByRegister_of_gt {b : BitVec 8} (h : 32 < b.toNat) (v : Word) (c : Bool) :
    shiftByRegister v .lsl b c = ⟨0, false⟩ ∧ shiftByRegister v .lsr b c = ⟨0, false⟩ ∧
      shiftByRegister v .asr b c = ⟨signFill v, v.getLsbD 31⟩ := by
  have hne : b ≠ 0 := BitVec.toNat_ne.mpr (Nat.zero_lt_of_lt h).ne'
  have hge : ¬ b.toNat < 32 := h.not_gt
  have hne32 : b ≠ 32 := BitVec.toNat_ne.mpr h.ne'
  exact ⟨(if_neg hne).trans ((if_neg hge).trans (if_neg hne32)), (if_neg hne).trans ((if_neg hge).trans (if_neg hne32)),
    (if_neg hne).trans (if_neg hge)⟩

/-- A rotation by 32 or more takes the amount modulo 32 (R165, R166). -/
theorem shiftByRegister_ror_of_ge {b : BitVec 8} (h : 32 ≤ b.toNat) (v : Word) (c : Bool) :
    shiftByRegister v .ror b c =
      if b.toNat % 32 = 0 then ⟨v, v.getLsbD 31⟩ else shiftBy v .ror (b.toNat % 32) := by
  have hne : b ≠ 0 := BitVec.toNat_ne.mpr (Nat.zero_lt_of_lt h).ne'
  exact (if_neg hne).trans (if_neg h.not_gt)

/-- Settles O20: the amount 0, an immediate's amounts, 32, and the amounts above. -/
theorem registerShiftSaturates : Obligations.RegisterShiftSaturates := by
  intro rs type rm s n v fill
  refine ⟨fun h => ?_, fun ⟨h1, h31⟩ => ?_, fun h => ?_, fun h => ?_⟩
  · rw [operand2_shiftReg h]
    rfl
  · rw [operand2_shiftReg rfl]
    exact shiftByRegister_eq_shiftByImmediate h1 (Nat.lt_succ_of_le h31) v type s.cpsr.c
  · simp only [operand2_shiftReg h]
    exact ⟨rfl, rfl, rfl, rfl⟩
  · simp only [operand2_shiftReg rfl]
    exact shiftByRegister_of_gt (h.trans_eq (shiftAmount_toNat rfl).symm) v s.cpsr.c

/-- Settles O21: a multiple of 32, and the amounts that leave a remainder. -/
theorem registerRotateIsModulo32 : Obligations.RegisterRotateIsModulo32 := by
  intro rs rm s n v h
  have hror := shiftByRegister_ror_of_ge (h.trans_eq (shiftAmount_toNat rfl).symm) v s.cpsr.c
  rw [shiftAmount_toNat rfl] at hror
  rw [operand2_shiftReg rfl, hror]
  refine ⟨fun h0 => if_pos h0, fun h0 => ?_⟩
  rw [if_neg h0, shiftBy, Word.rotateRight_eq_or v (Nat.mod_lt n (by decide))]

end Sys2Proof.Machine
end

section
/-! PROOFS. Data processing (42_data_processing.md): the logical opcodes, the subtractions as arithmetic, and what an
instruction leaves when its destination is not the program counter and when it has no meaning there. -/

namespace Sys2Proof.Machine

/-! ### The logical opcodes (42_data_processing.md R172, R173) -/

/-- The logical opcodes pass the shifter's carry (42_data_processing.md R173). -/
theorem aluResult_carry_of_logical {op : Opcode} (h : op ∈ [Opcode.and, .eor, .tst, .teq, .orr, .mov, .bic, .mvn])
    (a : Word) (b : ShifterOut) (carryIn vOld : Bool) : (aluResult op a b carryIn vOld).carry = b.carry := by
  simp only [List.mem_cons, List.not_mem_nil, or_false] at h
  obtain rfl | rfl | rfl | rfl | rfl | rfl | rfl | rfl := h <;> rfl

theorem Word.getLsbD_not (x : Word) {k : Nat} (hk : k < 32) : (~~~x).getLsbD k = !x.getLsbD k := by
  rw [BitVec.getLsbD_not, decide_eq_true hk, Bool.true_and]

/-- Settles O24: the word operations work bit by bit. -/
theorem logicalResultAndFlags : Obligations.LogicalResultAndFlags := by
  refine fun a b carryIn vOld => ⟨fun k hk => ?_, fun op hop =>
    ⟨aluResult_carry_of_logical hop .., aluResult_overflow_of_logical hop ..⟩⟩
  have hbic : (a &&& ~~~b.value).getLsbD k = (a.getLsbD k && !b.value.getLsbD k) := by
    rw [BitVec.getLsbD_and, Word.getLsbD_not _ hk]
  exact ⟨BitVec.getLsbD_and, BitVec.getLsbD_and, BitVec.getLsbD_xor, BitVec.getLsbD_xor, BitVec.getLsbD_or, rfl, hbic,
    Word.getLsbD_not _ hk⟩

/-! ### The subtractions (42_data_processing.md R172, R174) -/

theorem Word.toInt_not (y : Word) : (~~~y).toInt = -y.toInt - 1 := by
  have hy := y.isLt
  rw [BitVec.toInt_eq_toNat_cond, BitVec.toInt_eq_toNat_cond, BitVec.toNat_not]
  omega

theorem addWithCarry_not_value (x y : Word) (c : Bool) :
    (addWithCarry x (~~~y) c).value = x - y - BitVec.ofNat 32 (1 - c.toNat) := by
  have hx := x.isLt
  have hy := y.isLt
  apply BitVec.eq_of_toNat_eq
  rw [addWithCarry_toNat, BitVec.toNat_not, BitVec.toNat_sub, BitVec.toNat_sub, BitVec.toNat_ofNat]
  have hc := c.toNat_le
  omega

/-- The carry of a subtraction is 1 exactly when it does not borrow. -/
theorem addWithCarry_not_carry (x y : Word) (c : Bool) :
    (addWithCarry x (~~~y) c).carry = true ↔ y.toNat + (1 - c.toNat) ≤ x.toNat := by
  have hy := y.isLt
  rw [addWithCarry_carry, BitVec.toNat_not]
  have hc := c.toNat_le
  omega

/-- Adding the complement of `y` and a carry subtracts `y` and the borrow, exactly. -/
theorem toInt_add_not (x y : Word) (c : Bool) :
    x.toInt + (~~~y).toInt + c.toNat = x.toInt - y.toInt - (1 - c.toNat : Nat) := by
  have hc := c.toNat_le
  rw [Word.toInt_not]
  omega

/-- The overflow of a subtraction is 1 exactly when the signed difference leaves the range of a word. -/
theorem addWithCarry_not_overflow (x y : Word) (c : Bool) :
    (addWithCarry x (~~~y) c).overflow = true ↔
      x.toInt - y.toInt - (1 - c.toNat : Nat) < -2 ^ 31 ∨ 2 ^ 31 ≤ x.toInt - y.toInt - (1 - c.toNat : Nat) := by
  rw [addWithCarry_overflow, toInt_add_not]

/-- The overflow of a subtraction is 1 exactly when the operands differ in sign and so do the result and the minuend. -/
theorem addWithCarry_not_overflow_signs (x y : Word) (c : Bool) :
    (addWithCarry x (~~~y) c).overflow = true ↔
      x.getLsbD 31 ≠ y.getLsbD 31 ∧ (addWithCarry x (~~~y) c).value.getLsbD 31 ≠ x.getLsbD 31 := by
  have hc := c.toNat_le
  have hx := x.le_toInt
  have hx' := x.toInt_lt
  have hy := y.le_toInt
  have hy' := y.toInt_lt
  simp only [addWithCarry_overflow, getLsbD_31_eq_toInt_neg, addWithCarry_toInt, Word.toInt_not, Int.bmod_def,
    decide_eq_decide, ne_eq]
  omega

/-- Settles O23: each of the five opcodes is AddWithCarry of the minuend, the complement of the subtrahend and a carry
that stands for no borrow. -/
theorem subtractionResultAndFlags : Obligations.SubtractionResultAndFlags := by
  intro op a b carryIn vOld hop reversed x y borrow out
  have hout : ∃ c : Bool, out = addWithCarry x (~~~y) c ∧ borrow = 1 - c.toNat := by
    obtain rfl | rfl | rfl | rfl | rfl := hop
    exacts [⟨true, rfl, rfl⟩, ⟨true, rfl, rfl⟩, ⟨true, rfl, rfl⟩, ⟨carryIn, rfl, rfl⟩, ⟨carryIn, rfl, rfl⟩]
  have hsigns : op = .sub ∨ op = .cmp → (out.overflow = true ↔
      a.getLsbD 31 ≠ b.value.getLsbD 31 ∧ out.value.getLsbD 31 ≠ a.getLsbD 31) := by
    rintro (rfl | rfl) <;> exact addWithCarry_not_overflow_signs a b.value true
  obtain ⟨c, hc, hborrow⟩ := hout
  refine ⟨?_, ?_, ?_, hsigns⟩ <;> rw [hc, hborrow]
  exacts [addWithCarry_not_value x y c, addWithCarry_not_carry x y c, addWithCarry_not_overflow x y c]

/-! ### A destination that is not the program counter (42_data_processing.md R175, R176) -/

/-- A writing opcode: the result goes to its destination, the flags where S = 1. -/
theorem exec_dataInstr_write {op : Opcode} {c : Cond} {rd : Reg} {s : State} (hc : conditionPasses c s.cpsr = true)
    (hop : compares op = false) (hrd : rd ≠ 15) (sf : Bool) (rn : Reg) (o : Operand2) :
    exec (dataInstr op c sf rn rd o) s = .next (
      if sf then (s.setReg rd (dataProcessOut op rn o s).value).setFlags (dataProcessOut op rn o s)
      else s.setReg rd (dataProcessOut op rn o s).value) := by
  rw [exec_dataInstr_pass hc, dataProcessUnpredictable_of_ne hrd, if_neg Bool.false_ne_true, writeDestination, hop,
    if_neg Bool.false_ne_true, State.writeReg_of_ne hrd, sBit, hop, Bool.or_false, writeFlags, if_neg hrd]

/-- Settles O27: one register is written, then the flags where S = 1. -/
theorem dataProcessWritesItsDestination : Obligations.DataProcessWritesItsDestination := by
  intro op c sf rn rd o s hc hop hrd out
  have hsame : (s.regs.set (phys s.cpsr.mode rd) out.value).get (phys s.cpsr.mode rd) = out.value :=
    s.regs.get_set_same _ _
  have hkept : ∀ p ∉ [phys s.cpsr.mode rd],
      (s.regs.set (phys s.cpsr.mode rd) out.value).get p = s.regs.get p :=
    fun p hp => s.regs.get_set_ne _ (by simpa using hp)
  refine ⟨_, exec_dataInstr_write hc hop hrd sf rn o, ?_⟩
  cases sf <;> exact ⟨hsame, hkept, rfl, rfl, ⟨rfl, rfl, rfl, rfl, rfl, rfl⟩, rfl, rfl⟩

/-- Settles O28: the result is discarded, and S is 1 in a compare. -/
theorem compareWritesOnlyFlags : Obligations.CompareWritesOnlyFlags := by
  intro op c sf rn rd o s hc hop hrd out
  rw [exec_dataInstr_pass hc, dataProcessUnpredictable_of_ne hrd, if_neg Bool.false_ne_true, writeDestination,
    if_pos hop, sBit, hop, Bool.or_true, writeFlags_of_ne hrd]
  rfl

/-- Settles O31: what the program counter as destination asks of an instruction that has a meaning fails in both
cases. -/
theorem unpredictableDataProcessHalts : Obligations.UnpredictableDataProcessHalts := by
  intro op c sf rn o s hc hcase
  have hu : dataProcessUnpredictable op (sBit op sf) 15 s = true := by
    refine Bool.eq_true_of_not_eq_false fun hu => ?_
    obtain ⟨hop, hslot⟩ := (dataProcessUnpredictable_pc ..).mp hu
    obtain hcmp | ⟨rfl, hmode⟩ := hcase
    · exact Bool.false_ne_true (hop.symm.trans hcmp)
    · obtain ⟨w, hw⟩ := hslot (Bool.true_or _)
      exact Option.some_ne_none w (hw.symm.trans ((s.spsr.slot_isNone _).mpr hmode))
  rw [exec_dataInstr_pass hc, if_pos hu]
  rfl

/-- Settles O25: the flags and the destination take the one result that AddWithCarry has for the operands. -/
theorem sourceBoundaryExamples : Obligations.SourceBoundaryExamples := by
  intro s
  have hexec {op : Opcode} {out : AluOut} (hop : compares op = false)
      (hout : dataProcessOut op 1 (.imm ⟨0, 1⟩) s = out) :
      exec (dataInstr op .al true 1 0 (.imm ⟨0, 1⟩)) s = .next ((s.setReg 0 out.value).setFlags out) :=
    hout ▸ exec_dataInstr_write rfl hop (by decide) true 1 (.imm ⟨0, 1⟩)
  have hadd : addWithCarry 0x7FFFFFFF 1 false = ⟨0x80000000, false, true⟩ := by decide
  have hsub : addWithCarry 0 (~~~1) true = ⟨0xFFFFFFFF, false, false⟩ := by decide
  refine ⟨fun h1 => ?_, fun h1 => ?_⟩
  · have hout := (congrArg (aluResult .add · ⟨1, s.cpsr.c⟩ s.cpsr.c s.cpsr.v) h1).trans hadd
    exact ⟨_, hexec rfl hout, s.regs.get_set_same _ _, rfl⟩
  · have hout := (congrArg (aluResult .sub · ⟨1, s.cpsr.c⟩ s.cpsr.c s.cpsr.v) h1).trans hsub
    exact ⟨_, hexec rfl hout, s.regs.get_set_same _ _, rfl⟩

end Sys2Proof.Machine
end

section
/-! PROOFS. The Branch class (43_branch.md): what B and BL share, and the registers that each of them writes. -/

namespace Sys2Proof.Machine

/-! ### The effect of a branch (43_branch.md R200) -/

/-- The instructions of class Branch are those that branch, with or without a link. -/
theorem exec_of_cls_branch {i : Instr} (h : i.cls = .branch) :
    ∃ link offset24, ∀ s, exec i s = .next (branch i.cond link offset24 s) := by
  obtain ⟨_, _, _, _, _, hc, _⟩ | ⟨link, offset24, _, he⟩ | ⟨_, hc, _⟩ | ⟨_, hc, _⟩ | ⟨hx, _⟩ := exec_cases i
  · rw [h] at hc; cases hc
  · exact ⟨link, offset24, he⟩
  · rw [h] at hc; cases hc
  · rw [h] at hc; cases hc
  · rw [h] at hx; cases hx

/-- A branch that is taken writes registers alone: r14 when it links, then r15. -/
theorem branch_pass {c : Cond} {s : State} (hc : conditionPasses c s.cpsr = true) (link : Bool)
    (offset24 : BitVec 24) :
    branch c link offset24 s =
      (if link then s.writeReg 14 (s.pc - 4) else s).writeReg 15 (s.pc + branchDisplacement offset24) := by
  rw [branch, conditionally_pass hc, State.getReg_pc]

theorem restKept_branch (c : Cond) (link : Bool) (offset24 : BitVec 24) (s : State) :
    RestKept s (branch c link offset24 s) :=
  conditionally_induction ⟨rfl, rfl, rfl, rfl, rfl, rfl⟩ (by cases link <;> simp [RestKept])

theorem busKept_branch (c : Cond) (link : Bool) (offset24 : BitVec 24) (s : State) :
    BusKept s (branch c link offset24 s) :=
  conditionally_induction ⟨rfl, rfl⟩ (by cases link <;> simp [BusKept])

theorem branch_cpsr (c : Cond) (link : Bool) (offset24 : BitVec 24) (s : State) :
    (branch c link offset24 s).cpsr = s.cpsr :=
  conditionally_induction (P := fun t => t.cpsr = s.cpsr) rfl (by cases link <;> simp)

theorem branch_branched {c : Cond} {s : State} (hc : conditionPasses c s.cpsr = true) (link : Bool)
    (offset24 : BitVec 24) : (branch c link offset24 s).branched = true := by
  rw [branch_pass hc, State.writeReg_pc]

/-- The sum of the words is that of the integers, modulo 2^32. -/
theorem add_branchDisplacement (pc : Word) (offset24 : BitVec 24) :
    pc + branchDisplacement offset24 = BitVec.ofInt 32 (pc.toNat + 4 * offset24.toInt) := by
  rw [← toInt_branchDisplacement, BitVec.ofInt_add, BitVec.ofInt_natCast, BitVec.ofNat_toNat, BitVec.setWidth_eq,
    BitVec.ofInt_toInt]

theorem branch_pc {c : Cond} {s : State} (hc : conditionPasses c s.cpsr = true) (link : Bool)
    (offset24 : BitVec 24) :
    (branch c link offset24 s).pc = BitVec.ofInt 32 (s.pc.toNat + 4 * offset24.toInt) := by
  rw [branch_pass hc, State.pc_writeReg, if_pos rfl, add_branchDisplacement]

/-! ### The registers a branch writes (43_branch.md R200, R202) -/

theorem branch_link {c : Cond} {s : State} (hc : conditionPasses c s.cpsr = true) (offset24 : BitVec 24) :
    (branch c true offset24 s).getReg 14 = s.pc - 4 := by
  rw [branch_pass hc, if_pos rfl, State.getReg_writeReg, if_neg (by decide), State.getReg_writeReg, if_pos rfl]

theorem regsKeptBut_branch {c : Cond} {s : State} (hc : conditionPasses c s.cpsr = true) (offset24 : BitVec 24) :
    RegsKeptBut [.r 15] s (branch c false offset24 s) := by
  intro p hp
  rw [List.mem_singleton] at hp
  rw [branch_pass hc, if_neg Bool.false_ne_true, State.regs_writeReg, phys_pc, if_neg hp]

theorem regsKeptBut_branch_link {c : Cond} {s : State} (hc : conditionPasses c s.cpsr = true)
    (offset24 : BitVec 24) : RegsKeptBut [.r 15, phys s.cpsr.mode 14] s (branch c true offset24 s) := by
  intro p hp
  obtain ⟨hpc, hlr⟩ : p ≠ .r 15 ∧ p ≠ phys s.cpsr.mode 14 := by simpa using hp
  rw [branch_pass hc, if_pos rfl, State.regs_writeReg, phys_pc, if_neg hpc, State.regs_writeReg, if_neg hlr]

/-- Settles O33: B and BL are one operation, and differ in the link register alone. -/
theorem branchGoesToItsTarget : Obligations.BranchGoesToItsTarget := by
  intro c offset24 s hc
  refine ⟨⟨branch c false offset24 s, rfl, branch_pc hc .., ?_⟩, branch c true offset24 s, rfl, branch_pc hc .., ?_⟩
  · exact ⟨regsKeptBut_branch hc _, branch_cpsr .., branch_branched hc .., restKept_branch .., busKept_branch ..⟩
  · exact ⟨branch_link hc _, regsKeptBut_branch_link hc _, branch_cpsr .., branch_branched hc .., restKept_branch ..,
      busKept_branch ..⟩

/-- Settles O34: what a branch keeps, it keeps whether its condition passes or fails. -/
theorem branchNeverFaults : Obligations.BranchNeverFaults := by
  intro i s hcls
  obtain ⟨link, offset24, he⟩ := exec_of_cls_branch hcls
  obtain ⟨_, _, _, hhalted, _, _⟩ := restKept_branch i.cond link offset24 s
  obtain ⟨hbus, hlog⟩ := busKept_branch i.cond link offset24 s
  exact ⟨_, he s, hhalted, hbus, hlog, fun hfail => conditionally_fail hfail _⟩

end Sys2Proof.Machine
end

section
/-! PROOFS. The SingleDataTransfer class (44_single_data_transfer.md): the halts of R215 and R216, and the loads and
stores of words whose access is answered. -/

namespace Sys2Proof.Machine

/-! ### The two halts before any access (44_single_data_transfer.md R215, R216) -/

/-- The byte forms halt, whatever their registers. -/
theorem singleTransfer_byte {c : Cond} {t : SingleTransfer} {s : State} (hc : conditionPasses c s.cpsr = true)
    (hb : t.b = true) (raw : Word) : singleTransfer c t raw s = s.halt (.unimplementedInstruction raw) := by
  rw [singleTransfer, conditionally_pass hc, if_pos hb]

/-- The word forms to which the block gives no meaning halt. -/
theorem singleTransfer_unpredictable {c : Cond} {t : SingleTransfer} {s : State}
    (hc : conditionPasses c s.cpsr = true) (hb : t.b = false) (hu : t.unpredictable = true) (raw : Word) :
    singleTransfer c t raw s = s.halt (.unpredictableEncoding raw) := by
  rw [singleTransfer, conditionally_pass hc, hb, if_neg Bool.false_ne_true, if_pos hu]

/-- Settles O38: B = 1 is asked before anything else. -/
theorem byteTransferHalts : Obligations.ByteTransferHalts := by
  intro c t s hc hb
  rw [exec_singleInstr, singleTransfer_byte hc hb, State.halt]

/-- Settles O39: such a transfer has no meaning, which is asked before the access. -/
theorem unpredictableTransferHalts : Obligations.UnpredictableTransferHalts := by
  intro c t s hc hb hback hreg
  have hu : t.unpredictable = true := by
    refine Bool.eq_true_of_not_eq_false fun hu => ?_
    obtain ⟨hrd, hpc⟩ := t.unpredictable_eq_false_iff.mp hu hback
    exact hreg.elim hrd hpc
  rw [exec_singleInstr, singleTransfer_unpredictable hc hb hu, State.halt]

/-! ### Word transfers whose access is answered (44_single_data_transfer.md R210) -/

theorem SingleTransfer.unpredictable_eq_false_iff_writesBack (t : SingleTransfer) :
    t.unpredictable = false ↔ (t.writesBack = true → t.rn ≠ t.rd ∧ t.rn ≠ 15) := by
  rw [t.unpredictable_eq_false_iff, SingleTransfer.writesBack, Bool.or_eq_true, Bool.not_eq_true']

/-- The base update keeps everything but a register and `branched`. -/
theorem RestKept.writeBack {s u : State} (h : RestKept s u) (b : Bool) (i : Reg) (v : Word) :
    RestKept s (u.writeBack b i v) := by
  simpa only [RestKept, State.writeBack_spsr, State.writeBack_fetched, State.writeBack_decoded,
    State.writeBack_halted, State.writeBack_policy, State.writeBack_draws] using h

/-- An access that is answered draws no free word, so that nothing outside the registers, the bus and the trace
changes. -/
theorem SingleTransfer.Done.restKept {t : SingleTransfer} {s u : State} (h : t.Done s u) (hf : t.faults s = false) :
    RestKept s u :=
  ⟨h.spsr, h.fetched, h.decoded, h.halted, h.policy, by rw [h.draws, hf, Bool.and_false]; rfl⟩

/-- Settles O36: the destination holds the bus's word after the base update too, which writes another register. -/
theorem loadWordCompletes : Obligations.LoadWordCompletes := by
  intro c t s v offset computed address back hc hl hb (hback : t.writesBack = true → t.rn ≠ t.rd ∧ t.rn ≠ 15)
    (hread : s.bus.read (t.address s) = some v)
  have hf : t.faults s = false := by rw [SingleTransfer.faults, if_pos hl, hread, Option.isNone_some]
  obtain ⟨u, hdone, hexec⟩ :=
    exec_wordTransfer_done hc hb (t.unpredictable_eq_false_iff_writesBack.mpr hback) (.inr hf)
  have hbus : (u.writeBack t.writesBack t.rn (t.computed s)).bus = s.bus.afterRead (t.address s) := by
    rw [State.writeBack_bus, hdone.bus, if_pos hl]
  have hlog : (u.writeBack t.writesBack t.rn (t.computed s)).busLog
      = .read (t.address s) (some v) :: s.busLog := by
    rw [State.writeBack_busLog, hdone.log, if_pos hl, hread]
  have hregs : RegsKeptBut [phys s.cpsr.mode t.rd] s u := by
    have h := hdone.regs
    rwa [if_pos hl] at h
  refine ⟨_, hexec, ?_, fun hw => State.getReg_writeBack_same hw .., hregs.writeBack hdone.cpsr _ _ _, ?_, ?_,
    (hdone.restKept hf).writeBack _ _ _, hbus, fun hd => hbus.trans (Bus.afterRead_plain hd), hlog⟩
  · rw [State.getReg_writeBack_ne fun hw => (hback hw).1.symm, hdone.value hl, hread, Option.getD_some]
  · rw [State.writeBack_cpsr, hdone.cpsr]
  · rw [State.writeBack_branched fun hw => (hback hw).2, hdone.branched, hl, Bool.true_and]

/-- Settles O37: the bus is as the one write leaves it, and what that means for memory is the bus's own law. -/
theorem storeWordCompletes : Obligations.StoreWordCompletes := by
  intro c t s offset computed address back hc hl hb (hback : t.writesBack = true → t.rn ≠ t.rd ∧ t.rn ≠ 15)
    (haccepts : s.bus.accepts (t.address s) (s.getReg t.rd) = true)
  have hload : ¬ t.l = true := Bool.not_eq_true _ ▸ hl
  have hf : t.faults s = false := by rw [SingleTransfer.faults, if_neg hload, haccepts, Bool.not_true]
  obtain ⟨u, hdone, hexec⟩ :=
    exec_wordTransfer_done hc hb (t.unpredictable_eq_false_iff_writesBack.mpr hback) (.inr hf)
  have hbus : (u.writeBack t.writesBack t.rn (t.computed s)).bus
      = s.bus.afterWrite (t.address s) (s.getReg t.rd) := by
    rw [State.writeBack_bus, hdone.bus, if_neg hload]
  have hlog : (u.writeBack t.writesBack t.rn (t.computed s)).busLog
      = .write (t.address s) (s.getReg t.rd) true :: s.busLog := by
    rw [State.writeBack_busLog, hdone.log, if_neg hload, haccepts]
  have hregs : RegsKeptBut [] s u := by
    have h := hdone.regs
    rwa [if_neg hload] at h
  refine ⟨_, hexec, hbus, fun hs => ?_, fun hd => ⟨?_, fun n hn => ?_⟩,
    fun hw => State.getReg_writeBack_same hw .., hregs.writeBack hdone.cpsr _ _ _, ?_, ?_,
    (hdone.restKept hf).writeBack _ _ _, hlog⟩
  · obtain ⟨target, htarget⟩ := Option.ne_none_iff_exists'.mp hs
    rw [hbus]
    exact Bus.write_reads_back htarget _
  · rw [hbus]
    exact Bus.afterWrite_plain hd _
  · rw [hbus]
    exact Bus.afterWrite_outside hd _ hn
  · rw [State.writeBack_cpsr, hdone.cpsr]
  · rw [State.writeBack_branched fun hw => (hback hw).2, hdone.branched, hl, Bool.false_and, Bool.false_or]

end Sys2Proof.Machine
end

section
/-! PROOFS. The BlockDataTransfer class (45_block_data_transfer.md): its addresses, the halts of R235 and R236, and the
loads and stores whose accesses are all answered or of which one is faulted. -/

namespace Sys2Proof.Machine

/-! ### The listed registers and their addresses (45_block_data_transfer.md R231, R232) -/

theorem mem_before {t : BlockTransfer} {i j : Reg} : i ∈ t.before j ↔ t.list.getLsbD i.toNat = true ∧ i < j := by
  rw [BlockTransfer.before, List.mem_filter, mem_registers, decide_eq_true_eq]

/-- r15 is visited last (R238). -/
theorem pc_not_mem_before (t : BlockTransfer) (j : Reg) : 15 ∉ t.before j := fun h => by
  have hlt := (mem_before.mp h).2
  bv_omega

theorem before_length_le (t : BlockTransfer) (j : Reg) : (t.before j).length ≤ 16 :=
  (List.length_filter_le _ _).trans (registers_length_le t)

/-- The size of a block in bytes is 4 for each list member. -/
theorem BlockTransfer.size_eq (t : BlockTransfer) : t.size = BitVec.ofNat 32 (4 * listRank t.list 16) := by
  have hrange : List.range 16 = allRegs.map (·.toNat) := rfl
  rw [BlockTransfer.size, listRank, hrange, List.filter_map, List.length_map]
  rfl

/-- Settles O42: the start and the new base are the model's own for each of the four modes, and the last address
follows from the start. -/
theorem blockAddressesFollowTheFourModes : Obligations.BlockAddressesFollowTheFourModes := by
  intro t s base size last
  have hsize : t.size = size := t.size_eq
  have hup (hu : t.u = true) : t.newBase s = base + size := by rw [BlockTransfer.newBase, if_pos hu, hsize]
  have hdown (hu : t.u = false) : t.newBase s = base - size := by
    rw [BlockTransfer.newBase, hu, if_neg Bool.false_ne_true, hsize]
  refine ⟨fun hu hp => ?_, fun hu hp => ?_, fun hu hp => ?_, fun hu hp => ?_⟩
  · have hstart : t.start s = base := by rw [BlockTransfer.start, hu, hp]
    exact ⟨hstart, by simp only [last, hstart], hup hu⟩
  · have hstart : t.start s = base + 4 := by rw [BlockTransfer.start, hu, hp]
    exact ⟨hstart, by simp only [last, hstart]; ring, hup hu⟩
  · have hstart : t.start s = base - size + 4 := by rw [BlockTransfer.start, hu, hp, hsize]
    exact ⟨hstart, by simp only [last, hstart]; ring, hdown hu⟩
  · have hstart : t.start s = base - size := by rw [BlockTransfer.start, hu, hp, hsize]
    exact ⟨hstart, by simp only [last, hstart]; ring, hdown hu⟩

/-! ### The forms that make no access (45_block_data_transfer.md R235 to R237) -/

/-- The user-bank forms halt, whatever their registers (R235). -/
theorem blockTransfer_userBank {c : Cond} {t : BlockTransfer} {s : State} (hc : conditionPasses c s.cpsr = true)
    (hsb : t.sb = true) (raw : Word) : blockTransfer c t raw s = s.halt (.unimplementedInstruction raw) := by
  rw [blockTransfer, conditionally_pass hc, if_pos hsb]

/-- The other forms to which the block gives no meaning halt (R236). -/
theorem blockTransfer_unpredictable {c : Cond} {t : BlockTransfer} {s : State}
    (hc : conditionPasses c s.cpsr = true) (hsb : t.sb = false) (hu : t.unpredictable = true) (raw : Word) :
    blockTransfer c t raw s = s.halt (.unpredictableEncoding raw) := by
  rw [blockTransfer, conditionally_pass hc, hsb, if_neg Bool.false_ne_true, if_pos hu]

/-- Settles O45: both questions are asked before any access. -/
theorem blockFormsWithoutMeaningHalt : Obligations.BlockFormsWithoutMeaningHalt := by
  refine fun c t s hc => ⟨fun hsb => ?_, fun hsb hw hreg => ?_⟩
  · rw [exec_blockInstr, blockTransfer_userBank hc hsb, State.halt]
  · have hu : t.unpredictable = true := by
      refine Bool.eq_true_of_not_eq_false fun hu => ?_
      obtain ⟨hpc, hlisted⟩ := t.unpredictable_eq_false_iff.mp hu hw
      exact hreg.elim hpc (by simp [hlisted])
    rw [exec_blockInstr, blockTransfer_unpredictable hc hsb hu, State.halt]

/-- To write a register's own value to it changes nothing, unless it is r15. -/
theorem State.writeBack_getReg {b : Bool} {i : Reg} (h : b = true → i ≠ 15) (s : State) :
    s.writeBack b i (s.getReg i) = s := by
  cases b with
  | false => rfl
  | true => rw [State.writeBack, if_pos rfl, State.writeReg_of_ne (h rfl), State.setReg, State.getReg, RegFile.set_get]

theorem BlockTransfer.registers_of_empty {t : BlockTransfer} (h : t.list = 0) : t.registers = [] :=
  List.eq_nil_iff_forall_not_mem.mpr fun i hi => by simp [mem_registers, h] at hi

theorem BlockTransfer.newBase_of_empty {t : BlockTransfer} (h : t.list = 0) (s : State) : t.newBase s = s.getReg t.rn := by
  rw [BlockTransfer.newBase, BlockTransfer.size, BlockTransfer.registers_of_empty h]
  split
  · exact BitVec.add_zero _
  · exact BitVec.sub_zero _

/-- Settles O46: the loop has nothing to visit, and the base receives its own value. -/
theorem emptyBlockChangesNothing : Obligations.EmptyBlockChangesNothing := by
  intro c t s hlist hsb hback
  cases hc : conditionPasses c s.cpsr with
  | false => rw [exec_blockInstr, blockTransfer, conditionally_fail hc]
  | true =>
    have hu : t.unpredictable = false := t.unpredictable_eq_false_iff.mpr fun hw => ⟨hback hw, by simp [hlist]⟩
    have hnone : (if t.l then loadRegisters else storeRegisters) [] (t.start s) s = .done () s := by
      cases t.l <;> rfl
    rw [exec_block hc hsb hu, BlockTransfer.registers_of_empty hlist, hnone, Access.andThen,
      BlockTransfer.newBase_of_empty hlist, State.writeBack_getReg hback]

/-! ### What each access is answered (20_memory.md R61) -/

theorem BlockTransfer.faultsAt_load {t : BlockTransfer} (hl : t.l = true) (s : State) (i : Reg) :
    t.faultsAt s i = ((t.busAt s i).read (t.addressOf s i)).isNone :=
  if_pos hl

/-- A load delivers the bus's word wherever the bus answers with one. -/
theorem BlockTransfer.read_eq_loaded {t : BlockTransfer} (hl : t.l = true) {s : State} {i : Reg}
    (h : t.faultsAt s i = false) : (t.busAt s i).read (t.addressOf s i) = some (t.loaded s i) := by
  rw [t.faultsAt_load hl, Option.isNone_eq_false_iff, Option.isSome_iff_exists] at h
  obtain ⟨w, hw⟩ := h
  rw [BlockTransfer.loaded, hw, Option.getD_some]

/-- Away from devices a load finds the bus as it was at the start. -/
theorem BlockTransfer.busAt_load {t : BlockTransfer} (hl : t.l = true) {s : State} {i : Reg}
    (hd : ∀ k ∈ t.before i, s.bus.device (t.addressOf s k) = false) : t.busAt s i = s.bus :=
  reads_plain hl hd

/-! ### Blocks whose accesses are all answered (45_block_data_transfer.md R230, R249) -/

/-- Accesses that are all answered draw no free word, so that nothing outside the registers, the bus and the trace
changes. -/
theorem BlockTransfer.Done.restKept {t : BlockTransfer} {s u : State} (h : t.Done s u)
    (hf : ∀ i ∈ t.registers, t.faultsAt s i = false) : RestKept s u := by
  have hnone : t.registers.filter (t.faultsAt s) = [] := List.filter_eq_nil_iff.mpr fun i hi => by simp [hf i hi]
  exact ⟨h.spsr, h.fetched, h.decoded, h.halted, h.policy, by rw [h.draws, hnone]; simp⟩

/-- Settles O43: each listed register holds the bus's word after the base update too, which writes another register. -/
theorem blockLoadCompletes : Obligations.BlockLoadCompletes := by
  intro c t s hc hl hsb hback hread
  have hf : ∀ i : Reg, t.list.getLsbD i.toNat = true → t.faultsAt s i = false := fun i hi => by
    rw [t.faultsAt_load hl, Option.isNone_eq_false_iff, Option.isSome_iff_ne_none]
    exact hread i hi
  have hf' : ∀ i ∈ t.registers, t.faultsAt s i = false := fun i hi => hf i ((mem_registers t i).mp hi)
  obtain ⟨u, hdone, hexec⟩ := exec_block_done hc hsb (t.unpredictable_eq_false_iff.mpr hback) (.inr hf')
  have hbus : (u.writeBack t.w t.rn (t.newBase s)).bus = t.busAfter s := by rw [State.writeBack_bus, hdone.bus]
  have hvalues : ∀ i : Reg, t.list.getLsbD i.toNat = true →
      (t.busAt s i).read (t.addressOf s i) = some ((u.writeBack t.w t.rn (t.newBase s)).getReg i) := fun i hi => by
    have hne : t.w = true → i ≠ t.rn := by
      rintro hw rfl
      exact Bool.false_ne_true ((hback hw).2.symm.trans hi)
    rw [State.getReg_writeBack_ne hne, hdone.values hl i hi, t.read_eq_loaded hl (hf i hi)]
  have hregs : RegsKeptBut (t.registers.map (phys s.cpsr.mode)) s u := by
    have h := hdone.regs
    rwa [if_pos hl] at h
  refine ⟨_, hexec, hvalues, fun hw => State.getReg_writeBack_same hw .., hregs.writeBack hdone.cpsr _ _ _, ?_, ?_,
    (hdone.restKept hf').writeBack _ _ _, hbus, fun hd => ⟨hbus.trans (t.busAfter_load hd hl), fun i hi => ?_⟩, ?_⟩
  · rw [State.writeBack_cpsr, hdone.cpsr]
  · rw [State.writeBack_branched fun hw => (hback hw).1, hdone.branched, hl, Bool.true_and]
  · rw [← hvalues i hi, t.busAt_load hl fun k hk => hd k (mem_before.mp hk).1]
  · rw [State.writeBack_busLog, hdone.log]

/-- Settles O44: the bus is as the writes leave it, and what that means for memory is the law of the bus after a
block. -/
theorem blockStoreCompletes : Obligations.BlockStoreCompletes := by
  intro c t s hc hl hsb hback haccepts
  have hf : ∀ i ∈ t.registers, t.faultsAt s i = false := fun i hi => by
    rw [t.faultsAt_store hl, haccepts i ((mem_registers t i).mp hi), Bool.not_true]
  obtain ⟨u, hdone, hexec⟩ := exec_block_done hc hsb (t.unpredictable_eq_false_iff.mpr hback) (.inr hf)
  have hbus : (u.writeBack t.w t.rn (t.newBase s)).bus = t.busAfter s := by rw [State.writeBack_bus, hdone.bus]
  have hregs : RegsKeptBut [] s u := by
    have h := hdone.regs
    rwa [hl, if_neg Bool.false_ne_true] at h
  refine ⟨_, hexec, hbus, fun hd => ?_, fun hw => State.getReg_writeBack_same hw .., hregs.writeBack hdone.cpsr _ _ _,
    ?_, ?_, (hdone.restKept hf).writeBack _ _ _, ?_⟩
  · rw [hbus]
    exact ⟨fun i => t.busAfter_read_back hd hl, fun n hn => t.busAfter_outside hd hl fun i hi _ => hn i hi,
      t.busAfter_rest hd⟩
  · rw [State.writeBack_cpsr, hdone.cpsr]
  · rw [State.writeBack_branched fun hw => (hback hw).1, hdone.branched, hl, Bool.false_and, Bool.false_or]
  · rw [State.writeBack_busLog, hdone.log]

/-! ### Blocks of which one access is faulted (45_block_data_transfer.md R248, 60_exceptions.md R284) -/

/-- Everything about the state `u` that a block started in `s` halts in, when the access of register `j` is the first
one answered with Fault. -/
structure BlockTransfer.Faulted (t : BlockTransfer) (s : State) (j : Reg) (u : State) : Prop where
  halted : u.halted = some (.busFault (t.addressOf s j) (if t.l then .read else .write))
  values : t.l = true → ∀ i ∈ t.before j, u.getReg i = t.loaded s i
  loads : t.l = true → RegsKeptBut ((t.before j).map (phys s.cpsr.mode)) s u
  stores : t.l = false → u.regs = s.regs
  bus : u.bus = t.access s (t.busAt s j) j
  cpsr : u.cpsr = s.cpsr
  spsr : u.spsr = s.spsr
  branched : u.branched = s.branched
  fetched : u.fetched = s.fetched
  decoded : u.decoded = s.decoded
  draws : u.draws = s.draws
  policy : u.policy = s.policy
  log : u.busLog = t.event s j :: ((t.before j).map (t.event s)).reverse ++ s.busLog

section
variable {t : BlockTransfer} {s : State} {j : Reg} (hp : s.policy = .halt)
  (hpre : ∀ i ∈ t.before j, t.faultsAt s i = false) (hj : t.faultsAt s j = true)
include hp hpre hj

/-- The loop of a load halts at the register whose access is faulted. -/
theorem loadRegisters_faulted (hl : t.l = true) (hlist : t.list.getLsbD j.toNat = true) :
    ∃ u, loadRegisters t.registers (t.start s) s = .halted u ∧ t.Faulted s j u := by
  obtain ⟨rest, hr⟩ := registers_split t j hlist
  have haddr := addressesFrom_registers t s
  rw [hr] at haddr ⊢
  obtain ⟨v, hv, h⟩ := loadRegisters_done hl (t.before j) [] (j :: rest) _ s (.nil t s) hr haddr.split.1 (.inr hpre)
  rw [List.nil_append] at h
  obtain ⟨a, ⟨rfl, _⟩, hloop⟩ := loadRegisters_append (t.before j) (j :: rest) _ s _ haddr v hv
  have hbus : v.bus = t.busAt s j := h.bus
  have hread : v.bus.read (t.addressOf s j) = none := by
    rwa [hbus, ← Option.isNone_iff_eq_none, ← t.faultsAt_load hl]
  have hdraws : (t.before j).filter (t.faultsAt s) = [] := List.filter_eq_nil_iff.mpr fun i hi => by simp [hpre i hi]
  have hpc : (t.before j).contains 15 = false := by simpa using pc_not_mem_before t j
  rw [hloop, loadRegisters, State.memRead_faulted (h.policy.trans hp) hread]
  exact ⟨_, rfl, {
    halted := by rw [if_pos hl]
    values := fun _ => h.values
    loads := fun _ => h.regs
    stores := by simp [hl]
    bus := by rw [BlockTransfer.access, if_pos hl, hbus]
    cpsr := h.cpsr
    spsr := h.spsr
    branched := by rw [h.branched, hpc, Bool.false_or]
    fetched := h.fetched
    decoded := h.decoded
    draws := by rw [h.draws, hdraws]; rfl
    policy := h.policy
    log := by rw [BlockTransfer.event, if_pos hl, ← hbus, hread, h.log, List.cons_append] }⟩

/-- The loop of a store halts at the register whose access is faulted. -/
theorem storeRegisters_faulted (hl : t.l = false) (hlist : t.list.getLsbD j.toNat = true) :
    ∃ u, storeRegisters t.registers (t.start s) s = .halted u ∧ t.Faulted s j u := by
  obtain ⟨rest, hr⟩ := registers_split t j hlist
  have haddr := addressesFrom_registers t s
  rw [hr] at haddr ⊢
  obtain ⟨v, hv, h⟩ := storeRegisters_done hl (t.before j) [] (j :: rest) _ s (.nil t s) hr haddr.split.1 (.inr hpre)
  obtain ⟨a, ⟨rfl, _⟩, hloop⟩ := storeRegisters_append (t.before j) (j :: rest) _ s _ haddr v hv
  have hpolicy : v.policy = .halt := by rw [h.rest, hp]
  have hbus : v.bus = t.busAt s j := by rw [h.rest]; rfl
  have hreg : v.getReg j = s.getReg j := by rw [h.rest]; rfl
  have haccepts : (t.busAt s j).accepts (t.addressOf s j) (s.getReg j) = false := by
    rwa [t.faultsAt_store hl, Bool.not_eq_true'] at hj
  rw [hloop, storeRegisters, State.memWrite_faulted hpolicy (by rwa [hbus, hreg]), hbus, hreg]
  exact ⟨_, rfl, {
    halted := by rw [hl]; rfl
    values := by simp [hl]
    loads := by simp [hl]
    stores := fun _ => by rw [h.rest]
    bus := (t.access_store hl s _ j).symm
    cpsr := by rw [h.rest]
    spsr := by rw [h.rest]
    branched := by rw [h.rest]
    fetched := by rw [h.rest]
    decoded := by rw [h.rest]
    draws := by rw [h.rest]
    policy := by rw [h.rest]
    log := by rw [BlockTransfer.event, hl, haccepts, h.rest]; rfl }⟩

/-- A block of which one access is faulted under the policy halt ends there, without its base update. -/
theorem exec_block_faulted {c : Cond} (hc : conditionPasses c s.cpsr = true) (hsb : t.sb = false)
    (hu : t.unpredictable = false) (hlist : t.list.getLsbD j.toNat = true) :
    ∃ u, t.Faulted s j u ∧ exec (blockInstr c t) s = .next u := by
  rw [exec_block hc hsb hu]
  cases hl : t.l with
  | true =>
    obtain ⟨u, hloop, hfaulted⟩ := loadRegisters_faulted hp hpre hj hl hlist
    exact ⟨u, hfaulted, by rw [if_pos rfl, hloop, Access.andThen]⟩
  | false =>
    obtain ⟨u, hloop, hfaulted⟩ := storeRegisters_faulted hp hpre hj hl hlist
    exact ⟨u, hfaulted, by rw [if_neg Bool.false_ne_true, hloop, Access.andThen]⟩

end

/-- Away from devices a faulted access changes nothing on the bus. -/
theorem BlockTransfer.access_of_faultsAt {t : BlockTransfer} {s : State} {j : Reg} (h : t.faultsAt s j = true)
    (hd : s.bus.device (t.addressOf s j) = false) : t.access s (t.busAt s j) j = t.busAt s j := by
  have hm : MappingKept s.bus (t.busAt s j) := (moved_accesses t s (t.before j) s.bus).mapping
  have hdev := (hm.device _).trans hd
  cases hl : t.l with
  | true => rw [BlockTransfer.access, if_pos hl, Bus.afterRead_plain hdev]
  | false =>
    rw [t.faultsAt_store hl, Bool.not_eq_true'] at h
    rw [t.access_store hl, Bus.afterWrite_refused hdev h]

/-- Away from devices the accesses before register `j` change nothing but memory. -/
theorem BlockTransfer.busAt_rest {t : BlockTransfer} {s : State} {j : Reg}
    (hd : ∀ i ∈ t.before j, s.bus.device (t.addressOf s i) = false) :
    t.busAt s j = { s.bus with mem := (t.busAt s j).mem } := by
  cases hl : t.l with
  | true => rw [t.busAt_load hl hd]
  | false => exact (writes_plain hl hd).1

/-- Away from devices the words of the registers before `j` that plain memory keeps read back. -/
theorem BlockTransfer.busAt_read_back {t : BlockTransfer} (hl : t.l = false) {s : State} {i j : Reg}
    (hlist : t.list.getLsbD j.toNat = true) (hd : ∀ i ∈ t.before j, s.bus.device (t.addressOf s i) = false)
    (hi : i ∈ t.before j) (hs : s.bus.storesAt (t.addressOf s i) ≠ none) :
    (t.busAt s j).read (t.addressOf s i) = some (s.getReg i) := by
  obtain ⟨rest, hr⟩ := registers_split t j hlist
  have haddr := addressesFrom_registers t s
  rw [hr] at haddr
  exact writes_read_back hl (before_length_le t j) haddr.split.1 hd i hi hs

/-- Settles O47: what the halted state is follows from the loops, and what the bus before the faulted access holds from
the laws of the bus along a block. -/
theorem blockFaultKeepsThePrefix : Obligations.BlockFaultKeepsThePrefix := by
  intro c t s j hc hsb hback hp hlist hpre hj
  obtain ⟨u, h, hexec⟩ := exec_block_faulted hp hpre hj hc hsb (t.unpredictable_eq_false_iff.mpr hback) hlist
  refine ⟨u, hexec, h.halted, fun hl => ⟨fun i hi => ?_, h.loads hl⟩, h.stores, h.bus, fun hl => ?_,
    fun hd hdj => ?_, h.cpsr, h.spsr, h.branched, h.fetched, h.decoded, h.draws, h.policy, h.log⟩
  · rw [h.values hl i hi, t.read_eq_loaded hl (hpre i hi)]
  · rw [h.bus, t.access_mem_of_faultsAt hl hj]
  · rw [h.bus, t.access_of_faultsAt hj hdj]
    exact ⟨fun hl => t.busAt_load hl hd, t.busAt_rest hd, fun hl =>
      ⟨fun i hi hs => t.busAt_read_back hl hlist hd hi hs,
        fun n hn => (writes_plain hl hd).2 n fun i hi _ => hn i hi⟩⟩

end Sys2Proof.Machine
end

section
/-! PROOFS. The classes that are decoded and not executed (46_unexecuted_classes.md): the halt of R250. -/

namespace Sys2Proof.Machine

/-- An instruction of an unexecuted class whose condition passes halts for want of a meaning (R250). -/
theorem unexecuted_pass {i : Instr} {s : State} (hc : conditionPasses i.cond s.cpsr = true) :
    unexecuted i s = s.halt (.unimplementedInstruction (encode i)) := by
  rw [unexecuted, conditionally_pass hc]

/-- Settles O48: the ten classes share the effect `unexecuted`, which halts when the condition passes. -/
theorem unexecutedClassesHalt : Obligations.UnexecutedClassesHalt := by
  intro i s hcls hc
  rw [exec_unexecuted hcls, unexecuted_pass hc, State.halt]

end Sys2Proof.Machine
end
